-- ==== Sys2Proof/Word.lean ====
section
/-! DEFINITION. The word, byte and digest types (00_scope.md R7, R9). -/

namespace Sys2Proof

/-- `u32`, a 32-bit unsigned value (R7). -/
abbrev Word := BitVec 32

/-- `u8`, an 8-bit unsigned value (R7). -/
abbrev Byte := BitVec 8

/-- A finite list of bytes (R9). -/
abbrev Bytes := List Byte

/-- Eight words: a digest or hash state `H[0..7]` (R9, 10_state.md R32), and also the eight
working variables `a..h` (R37), `a` standing in `h0` and `h` in `h7`. -/
structure Digest where
  h0 : Word
  h1 : Word
  h2 : Word
  h3 : Word
  h4 : Word
  h5 : Word
  h6 : Word
  h7 : Word
deriving DecidableEq, Repr

end Sys2Proof
end

