-- ==== Sys2Proof/Config.lean ====
section
/-! DEFINITION. The parameters of one instance of the block (00_scope.md R5) and the free values
the spec leaves open (93_implementation_defined.md, unspecified values). -/

namespace Sys2Proof

/-- The parameters R5 names, none fixed by the spec. State holds them as data that no step
changes, so every statement holds for every instance. `LATENCY` is the place of the engine's
turns in the agenda (R238). -/
structure Params where
  /-- `MEM_BYTES`, the size of the buffer memory. -/
  memBytes : Nat
  /-- `MAX_LEAVES`, the capacity of the Merkle layer buffer. -/
  maxLeaves : Nat
  /-- `REG_BASE`, where the platform places the register window. -/
  regBase : Nat
deriving DecidableEq, Repr

/-- The values 95_test_vectors.md uses. DESIGN CHOICE (log 2): the instance `State.reset` is of. -/
def Params.ofExamples : Params := { memBytes := 4096, maxLeaves := 16, regBase := 0 }

/-- The `i`-th word of the `n`-th draw: a free value under no law (10_state.md R32, R221). -/
opaque Config.freeWord : Nat → Nat → Word

/-- The `i`-th byte of the `n`-th draw: a free value under no law (R76, R222, R234). -/
opaque Config.freeByte : Nat → Nat → Byte

/-- What the never-written byte at the address given last holds for the command accepted at the
draw given first: a free value (20_memory.md R76; log 8). -/
opaque Config.unwrittenByte : Nat → Nat → Byte

end Sys2Proof
end

