-- ==== Sys2Proof/Syntax.lean ====
section
/-! DEFINITION. The whole syntax: the eleven commands (30_encoding.md R83), the raw fields of a
command word (R80), register names (10_state.md R21), the host's transactions (00_scope.md R11)
and the host program notation (R88, R89). -/

namespace Sys2Proof

/-- One constructor per row of spec/opcode_table.json (R83). -/
inductive Instr where
  | nop
  | init
  | compress
  | hash
  | hashBin
  | hashHex
  | merkle
  | merkleBin
  | merkleHex
  | storeBin
  | storeHex
deriving DecidableEq, Repr

/-- The output formats of R82; 0b11 is reserved and has no constructor. -/
inductive OutFmt where
  /-- 0b00, no suffix: nothing is written. -/
  | plain
  /-- 0b01, `.bin`: 32 bytes. -/
  | bin
  /-- 0b10, `.hex`: 64 bytes. -/
  | hex
deriving DecidableEq, Repr

/-- The fields of a command word, legal or not (R80). -/
structure CmdFields where
  op : BitVec 4
  outfmt : BitVec 2
  rsv : BitVec 26
deriving DecidableEq, Repr

/-- Why a word is illegal (R85). -/
inductive DecodeError where
  /-- A bit of RSV (31:6) is set. -/
  | reservedBits
  /-- OP is 0x6 to 0xF. -/
  | reservedOp
  /-- OUTFMT is 0b11. -/
  | reservedOutfmt
  /-- OUTFMT is defined but not admitted for the OP. -/
  | outfmtNotAdmitted
deriving DecidableEq, Repr

/-- The values STATUS.ERRCODE takes (60_exceptions.md R190); 7 to 15 are never raised. -/
inductive ErrorCode where
  | noError
  | emptyInput
  | illegalCmd
  | srcRange
  | dstRange
  | leafRange
  | leafCount
deriving DecidableEq, Repr

/-- The registers the map of R21 names. -/
inductive RegName where
  | id
  | ctrl
  | status
  | cmd
  | srcAddr
  | len
  | dstAddr
  | errInfo
  | capMem
  | capLeaves
  | h (i : Fin 8)
deriving DecidableEq, Repr

/-- One host step (R11). A register transaction carries its bus address and its width in bits, so
that the accesses R20 and R61 refuse can be written down. -/
inductive HostAction where
  | regRead (addr bits : Nat)
  | regWrite (addr bits : Nat) (v : Word)
  | memRead (a : Nat)
  | memWrite (a : Nat) (v : Byte)
  /-- The assertion of reset (70_reset_and_hazards.md R220). -/
  | reset
deriving DecidableEq, Repr

/-- An entry of the agenda: whose step comes next (R11). -/
inductive Event where
  | host (a : HostAction)
  /-- The engine's turn: the completion of the running command, if there is one. -/
  | engine
deriving DecidableEq, Repr

/-- The statements of the host program notation (R88). The host variable of `rd` is the host's
own; the value read stands in State's port. `wait` carries how many polls find BUSY set. -/
inductive Stmt where
  | wr (r : RegName) (v : Word)
  | rd (r : RegName)
  | mb (a : Nat) (bs : Bytes)
  | mw (a : Nat) (ws : List Word)
  | command (i : Instr)
  | wait (polls : Nat)
  | clr
deriving DecidableEq, Repr

/-- The pseudo-instructions (R89). -/
inductive Pseudo where
  | sha256 (fmt : OutFmt) (src len : Word) (dst : Option Word)
  | root (fmt : OutFmt) (tbl n : Word) (dst : Option Word)
  | block (src : Word)
  | dump (fmt : OutFmt) (dst : Word)
  | restart
deriving DecidableEq, Repr

/-- Every command once, in the order of R83. -/
def Instr.all : List Instr :=
  [.nop, .init, .compress, .hash, .hashBin, .hashHex, .merkle, .merkleBin, .merkleHex,
   .storeBin, .storeHex]

/-- The OP and OUTFMT columns of R83. -/
def Instr.fields : Instr → CmdFields
  | .nop => { op := 0, outfmt := 0, rsv := 0 }
  | .init => { op := 1, outfmt := 0, rsv := 0 }
  | .compress => { op := 2, outfmt := 0, rsv := 0 }
  | .hash => { op := 3, outfmt := 0, rsv := 0 }
  | .hashBin => { op := 3, outfmt := 1, rsv := 0 }
  | .hashHex => { op := 3, outfmt := 2, rsv := 0 }
  | .merkle => { op := 4, outfmt := 0, rsv := 0 }
  | .merkleBin => { op := 4, outfmt := 1, rsv := 0 }
  | .merkleHex => { op := 4, outfmt := 2, rsv := 0 }
  | .storeBin => { op := 5, outfmt := 1, rsv := 0 }
  | .storeHex => { op := 5, outfmt := 2, rsv := 0 }

end Sys2Proof
end

