-- ==== Sys2Proof/WellFormed.lean ====
section
/-! DEFINITION. What may be written down but is no command, parameter choice, host transaction or
pseudo-instruction of the spec (30_encoding.md R83, R85, R89; 00_scope.md R5; 10_state.md R20;
20_memory.md R61). -/

namespace Sys2Proof

/-- OP is one of the six R81 defines. -/
def CmdFields.opDefined (f : CmdFields) : Bool := decide (f.op ≤ 5)

/-- OUTFMT is one of the three R82 defines. -/
def CmdFields.outfmtDefined (f : CmdFields) : Bool := decide (f.outfmt ≠ 3)

/-- `nop`, `init`, `compress` take 00 only, `store` 01 or 10 only, `hash` and `merkle` all (R83). -/
def CmdFields.outfmtAdmitted (f : CmdFields) : Bool :=
  if f.op ≤ 2 then decide (f.outfmt = 0)
  else if f.op = 5 then decide (f.outfmt ≠ 0)
  else true

/-- The four causes of R85 are all absent. -/
def CmdFields.wf (f : CmdFields) : Bool :=
  f.opDefined && f.outfmtDefined && f.outfmtAdmitted && decide (f.rsv = 0)

/-- A command is well formed when its fields are; it carries no operand (R86). -/
def Instr.wf (i : Instr) : Bool := i.fields.wf

/-- The legal values of R5. -/
def Params.wf (p : Params) : Bool :=
  decide (64 ≤ p.memBytes) && decide (p.memBytes ≤ 2 ^ 31) &&
  decide (1 ≤ p.maxLeaves) && decide (p.maxLeaves ≤ 2 ^ 31)

/-- An aligned 32-bit access inside the 256-byte window (R20). -/
def regAccessOk (p : Params) (addr bits : Nat) : Bool :=
  decide (p.regBase ≤ addr) && decide (addr < p.regBase + 256) && decide (bits = 32) &&
  decide ((addr - p.regBase) % 4 = 0)

/-- The transactions that are part of the interface (R20, R61). -/
def HostAction.wf (p : Params) : HostAction → Bool
  | .regRead addr bits => regAccessOk p addr bits
  | .regWrite addr bits _ => regAccessOk p addr bits
  | .memRead a => decide (a < p.memBytes)
  | .memWrite a _ => decide (a < p.memBytes)
  | .reset => true

/-- `dst` may be left out only without a suffix, and `dump` has a suffix always (R89). -/
def Pseudo.wf : Pseudo → Bool
  | .sha256 fmt _ _ dst => decide (fmt = .plain) || dst.isSome
  | .root fmt _ _ dst => decide (fmt = .plain) || dst.isSome
  | .block _ => true
  | .dump fmt _ => decide (fmt ≠ .plain)
  | .restart => true

end Sys2Proof
end

