-- ==== Sys2Proof/Decode.lean ====
section
/-! DEFINITION. The decoder, total on every word and rejecting by name (30_encoding.md R80 to
R85), then the encoder, and the assembler's mnemonics (R87). -/

namespace Sys2Proof

/-- The fields of R80: OP is 3:0, OUTFMT 5:4, RSV 31:6. -/
def CmdFields.ofWord (c : Word) : CmdFields :=
  { op := c.extractLsb' 0 4, outfmt := c.extractLsb' 4 2, rsv := c.extractLsb' 6 26 }

/-- Choose by OUTFMT among the forms an OP admits (R82, R83). -/
def decodeOutfmt (plain bin hex : Option Instr) (fmt : BitVec 2) : Except DecodeError Instr :=
  let chosen :=
    if fmt = 0 then plain.map .ok
    else if fmt = 1 then bin.map .ok
    else if fmt = 2 then hex.map .ok
    else some (.error .reservedOutfmt)
  chosen.getD (.error .outfmtNotAdmitted)

/-- Choose by OP (R81), RSV being 0. -/
def decodeFields (f : CmdFields) : Except DecodeError Instr :=
  if f.rsv ≠ 0 then .error .reservedBits
  else if f.op = 0 then decodeOutfmt (some .nop) none none f.outfmt
  else if f.op = 1 then decodeOutfmt (some .init) none none f.outfmt
  else if f.op = 2 then decodeOutfmt (some .compress) none none f.outfmt
  else if f.op = 3 then decodeOutfmt (some .hash) (some .hashBin) (some .hashHex) f.outfmt
  else if f.op = 4 then decodeOutfmt (some .merkle) (some .merkleBin) (some .merkleHex) f.outfmt
  else if f.op = 5 then decodeOutfmt none (some .storeBin) (some .storeHex) f.outfmt
  else .error .reservedOp

/-- The command a word stands for, or why it is illegal (R83, R85). -/
def decode (c : Word) : Except DecodeError Instr := decodeFields (CmdFields.ofWord c)

/-- The words of R83. -/
def encode : Instr → Word
  | .nop => 0x00000000
  | .init => 0x00000001
  | .compress => 0x00000002
  | .hash => 0x00000003
  | .hashBin => 0x00000013
  | .hashHex => 0x00000023
  | .merkle => 0x00000004
  | .merkleBin => 0x00000014
  | .merkleHex => 0x00000024
  | .storeBin => 0x00000015
  | .storeHex => 0x00000025

/-- The word the host asks about: one command word is the whole instruction (R80), so its bits
are the number's low 32 of the `nbits` given. -/
def tableWord (nbits w : Nat) : Word := BitVec.ofNat 32 (w % 2 ^ nbits)

/-- What the decoder reads from a row of spec/opcode_table.json. -/
def decodeTableWord (nbits w : Nat) : Option Instr :=
  match decode (tableWord nbits w) with
  | .ok i => some i
  | .error _ => none

/-- The mnemonics of R83, lower case (R87). -/
def Instr.mnemonic : Instr → String
  | .nop => "nop"
  | .init => "init"
  | .compress => "compress"
  | .hash => "hash"
  | .hashBin => "hash.bin"
  | .hashHex => "hash.hex"
  | .merkle => "merkle"
  | .merkleBin => "merkle.bin"
  | .merkleHex => "merkle.hex"
  | .storeBin => "store.bin"
  | .storeHex => "store.hex"

/-- The assembler emits the word of R83 and refuses any other spelling (R87). -/
def assemble (text : String) : Option Word :=
  (Instr.all.find? fun i => decide (i.mnemonic = text)).map encode

end Sys2Proof
end

