-- ==== Sys2Proof/Machine/Memory.lean ====
section
/-! DEFINITION. The buffer memory as a list of cells, and `MemWrite` (20_memory.md R60, R63, R76).
A listed address is a byte written since power-on; an unlisted one was never written and has no
value. Canonical form: addresses strictly rising. -/

namespace Sys2Proof.Machine

/-- The byte at an address, or none where nothing has been written since power-on (R76). -/
def Memory.get? : List Host.Cell → Nat → Option Byte
  | [], _ => none
  | c :: rest, a => if c.1 = a then some c.2 else Memory.get? rest a

/-- `MEM[a] <- v` (R61). -/
def Memory.write : List Host.Cell → Nat → Byte → List Host.Cell
  | [], a, v => [(a, v)]
  | c :: rest, a, v =>
    if a < c.1 then (a, v) :: c :: rest
    else if a = c.1 then (a, v) :: rest
    else c :: Memory.write rest a v

/-- `MemWrite(a, n, bs)`, `bs[0]` at `a` (R63). -/
def Memory.writeBytes (m : List Host.Cell) (a : Nat) : Bytes → List Host.Cell
  | [] => m
  | b :: bs => Memory.writeBytes (Memory.write m a b) (a + 1) bs

/-- The canonical form: addresses strictly rising. -/
def Memory.wf : List Host.Cell → Bool
  | [] => true
  | [_] => true
  | c :: d :: rest => decide (c.1 < d.1) && Memory.wf (d :: rest)

/-- Every written address exists (R60). -/
def Memory.within (size : Nat) (m : List Host.Cell) : Bool := m.all fun c => decide (c.1 < size)

end Sys2Proof.Machine
end

