-- ==== Sys2Proof/Machine/Sha256.lean ====
section
/-! DEFINITION. SHA-256 as pure functions of words and bytes: the word functions
(40_sha256_functions.md R100 to R109), the constant tables (10_state.md R35, R36), padding,
schedule, rounds, digest and hex form (41_sha256_engine.md R120 to R130), and the reference
sequencing of R38 and R132. -/

namespace Sys2Proof.Machine

/-! ### Word functions -/

/-- `x +32 y` (R100). -/
def add32 (x y : Word) : Word := x + y

/-- Logical right shift (R102). -/
def shr (x : Word) (n : Nat) : Word := x >>> n

/-- Right rotation, the word first (R101, 90_conflicts.md C1). -/
def rotr (x : Word) (n : Nat) : Word := (x >>> n) ||| (x <<< (32 - n))

/-- σ0 (R104). -/
def ssig0 (x : Word) : Word := rotr x 7 ^^^ rotr x 18 ^^^ shr x 3

/-- σ1 (R105). -/
def ssig1 (x : Word) : Word := rotr x 17 ^^^ rotr x 19 ^^^ shr x 10

/-- Σ0 (R106). -/
def bsig0 (a : Word) : Word := rotr a 2 ^^^ rotr a 13 ^^^ rotr a 22

/-- Σ1 (R107). -/
def bsig1 (e : Word) : Word := rotr e 6 ^^^ rotr e 11 ^^^ rotr e 25

/-- Choose (R108). -/
def ch (e f g : Word) : Word := (e &&& f) ^^^ (~~~e &&& g)

/-- Majority (R109). -/
def maj (a b c : Word) : Word := (a &&& b) ^^^ (a &&& c) ^^^ (b &&& c)

/-! ### Constant tables -/

/-- The round constants `K[0..63]`, eight a row (R35). -/
def roundConstants : List Word :=
  [0x428a2f98, 0x71374491, 0xb5c0fbcf, 0xe9b5dba5, 0x3956c25b, 0x59f111f1, 0x923f82a4, 0xab1c5ed5] ++
  [0xd807aa98, 0x12835b01, 0x243185be, 0x550c7dc3, 0x72be5d74, 0x80deb1fe, 0x9bdc06a7, 0xc19bf174] ++
  [0xe49b69c1, 0xefbe4786, 0x0fc19dc6, 0x240ca1cc, 0x2de92c6f, 0x4a7484aa, 0x5cb0a9dc, 0x76f988da] ++
  [0x983e5152, 0xa831c66d, 0xb00327c8, 0xbf597fc7, 0xc6e00bf3, 0xd5a79147, 0x06ca6351, 0x14292967] ++
  [0x27b70a85, 0x2e1b2138, 0x4d2c6dfc, 0x53380d13, 0x650a7354, 0x766a0abb, 0x81c2c92e, 0x92722c85] ++
  [0xa2bfe8a1, 0xa81a664b, 0xc24b8b70, 0xc76c51a3, 0xd192e819, 0xd6990624, 0xf40e3585, 0x106aa070] ++
  [0x19a4c116, 0x1e376c08, 0x2748774c, 0x34b0bcb5, 0x391c0cb3, 0x4ed8aa4a, 0x5b9cca4f, 0x682e6ff3] ++
  [0x748f82ee, 0x78a5636f, 0x84c87814, 0x8cc70208, 0x90befffa, 0xa4506ceb, 0xbef9a3f7, 0xc67178f2]

/-- The initial hash value `IV[0..7]` (R36). -/
def initialHash : Digest :=
  { h0 := 0x6a09e667, h1 := 0xbb67ae85, h2 := 0x3c6ef372, h3 := 0xa54ff53a
    h4 := 0x510e527f, h5 := 0x9b05688c, h6 := 0x1f83d9ab, h7 := 0x5be0cd19 }

/-! ### Bytes and words -/

/-- `be32`, the byte at the lowest address being bits 31:24 (00_scope.md R9, 20_memory.md R64). -/
def be32 (b0 b1 b2 b3 : Byte) : Word :=
  (b0.setWidth 32 <<< 24) ||| (b1.setWidth 32 <<< 16) ||| (b2.setWidth 32 <<< 8) ||| b3.setWidth 32

/-- `be_bytes(v, k)`, most significant byte first (R9). -/
def beBytes (v : Nat) : Nat → Bytes
  | 0 => []
  | k + 1 => beBytes (v / 256) k ++ [BitVec.ofNat 8 v]

/-- The big-endian words of a byte list, four bytes a word (R64, R122). -/
def beWords : Bytes → List Word
  | b0 :: b1 :: b2 :: b3 :: rest => be32 b0 b1 b2 b3 :: beWords rest
  | _ => []

/-- `H[i]` (10_state.md R32). -/
def digestWord (d : Digest) (i : Fin 8) : Word :=
  match i with
  | 0 => d.h0
  | 1 => d.h1
  | 2 => d.h2
  | 3 => d.h3
  | 4 => d.h4
  | 5 => d.h5
  | 6 => d.h6
  | 7 => d.h7

/-- `H[i] <- v` (10_state.md R32). -/
def setDigestWord (d : Digest) (i : Fin 8) (v : Word) : Digest :=
  match i with
  | 0 => { d with h0 := v }
  | 1 => { d with h1 := v }
  | 2 => { d with h2 := v }
  | 3 => { d with h3 := v }
  | 4 => { d with h4 := v }
  | 5 => { d with h5 := v }
  | 6 => { d with h6 := v }
  | 7 => { d with h7 := v }

/-- The words `H[0], ..., H[7]` in order. -/
def digestWords (d : Digest) : List Word :=
  [d.h0, d.h1, d.h2, d.h3, d.h4, d.h5, d.h6, d.h7]

/-- `digest_bytes(S)`, 32 bytes (R128, 20_memory.md R66). -/
def digestBytes (d : Digest) : Bytes := (digestWords d).flatMap fun w => beBytes w.toNat 4

/-- The ASCII code of a lowercase hexadecimal digit (R130). -/
def hexChar (v : BitVec 4) : Byte :=
  if v.toNat ≤ 9 then BitVec.ofNat 8 (0x30 + v.toNat) else BitVec.ofNat 8 (0x61 + (v.toNat - 10))

/-- The two characters of a byte, high nibble first (R129). -/
def hexByte (x : Byte) : Bytes := [hexChar (x.extractLsb' 4 4), hexChar (x.extractLsb' 0 4)]

/-- `hex(S)`, 64 bytes (R129). -/
def hexForm (d : Digest) : Bytes := (digestBytes d).flatMap hexByte

/-! ### The algorithm -/

/-- The number of zero bytes of the padding, `(55 - L) mod 64` over the integers (R120). -/
def padZeros (len : Nat) : Nat := (119 - len % 64) % 64

/-- `Pad(m)` (R120, 20_memory.md R65). -/
def pad (m : Bytes) : Bytes :=
  m ++ [0x80] ++ List.replicate (padZeros m.length) 0x00 ++ beBytes (8 * m.length) 8

/-- `nblocks(L)` (R121). -/
def nblocks (len : Nat) : Nat := (len + 8) / 64 + 1

/-- `B_k`, block `k` of the padded message (R122). -/
def padBlock (m : Bytes) (k : Nat) : Bytes := ((pad m).drop (64 * k)).take 64

/-- The next schedule word, for `t = W.length` (R123). -/
def nextW (w : List Word) : Word :=
  add32 (add32 (add32 (w.getD (w.length - 16) 0) (ssig0 (w.getD (w.length - 15) 0)))
    (w.getD (w.length - 7) 0)) (ssig1 (w.getD (w.length - 2) 0))

/-- Append `n` schedule words. -/
def extendW : Nat → List Word → List Word
  | 0, w => w
  | n + 1, w => extendW n (w ++ [nextW w])

/-- `W[0..63]` of a block (R123). -/
def schedule (block : Bytes) : List Word := extendW 48 (beWords block)

/-- One round, `k = K[t]` and `w = W[t]`; the eight assignments are simultaneous (R124). -/
def round (v : Digest) (k w : Word) : Digest :=
  let t1 := add32 (add32 (add32 (add32 v.h7 (bsig1 v.h4)) (ch v.h4 v.h5 v.h6)) k) w
  let t2 := add32 (bsig0 v.h0) (maj v.h0 v.h1 v.h2)
  { h0 := add32 t1 t2, h1 := v.h0, h2 := v.h1, h3 := v.h2
    h4 := add32 v.h3 t1, h5 := v.h4, h6 := v.h5, h7 := v.h6 }

/-- Rounds `0 .. n - 1` over a schedule (R124, R125). -/
def rounds (n : Nat) (w : List Word) (v : Digest) : Digest :=
  (List.range n).foldl (fun v t => round v (roundConstants.getD t 0) (w.getD t 0)) v

/-- Feed-forward (R126). -/
def feedForward (hin v : Digest) : Digest :=
  { h0 := add32 hin.h0 v.h0, h1 := add32 hin.h1 v.h1, h2 := add32 hin.h2 v.h2
    h3 := add32 hin.h3 v.h3, h4 := add32 hin.h4 v.h4, h5 := add32 hin.h5 v.h5
    h6 := add32 hin.h6 v.h6, h7 := add32 hin.h7 v.h7 }

/-- `Compress(Hin, B)` (R125). -/
def compressBlock (hin : Digest) (block : Bytes) : Digest :=
  feedForward hin (rounds 64 (schedule block) hin)

/-- The chaining value after the first `n` blocks of `Pad(m)` (R127). -/
def chain (m : Bytes) (n : Nat) : Digest :=
  (List.range n).foldl (fun s k => compressBlock s (padBlock m k)) initialHash

/-- `SHA256(m)` (R127). -/
def sha256 (m : Bytes) : Digest := chain m (nblocks m.length)

/-! ### Reference sequencing, equal to the above -/

/-- Byte `p` of the padded message as the padding sequencer makes it: from the message, or
generated in place of the bytes past its end (R132). -/
def streamByte (m : Bytes) (p : Nat) : Byte :=
  if p < m.length then m.getD p 0
  else if p = m.length then 0x80
  else if p < 64 * nblocks m.length - 8 then 0x00
  else (beBytes (8 * m.length) 8).getD (p - (64 * nblocks m.length - 8)) 0

/-- Block `k` as the sequencer feeds it (R132). -/
def streamBlock (m : Bytes) (k : Nat) : Bytes :=
  (List.range 64).map fun j => streamByte m (64 * k + j)

/-- SHA-256 by the reference sequencing (R132). -/
def sha256Stream (m : Bytes) : Digest :=
  (List.range (nblocks m.length)).foldl (fun s k => compressBlock s (streamBlock m k)) initialHash

/-- One round over a 16-word window `W[t] .. W[t+15]`, which then moves on by one (R38). -/
def windowRound (t : Nat) (x : Digest × List Word) : Digest × List Word :=
  (round x.1 (roundConstants.getD t 0) (x.2.getD 0 0), x.2.drop 1 ++ [nextW x.2])

/-- `Compress` by a realisation that keeps only the window (R38, R132). -/
def compressWindow (hin : Digest) (block : Bytes) : Digest :=
  feedForward hin
    ((List.range 64).foldl (fun x t => windowRound t x) (hin, beWords block)).1

end Sys2Proof.Machine
end

