-- ==== Sys2Proof/Machine/State.lean ====
section
/-! DEFINITION. The state of the block as plain data (10_state.md R20 to R42, 20_memory.md R60), the
reasons a step can stop, and the state after power-on reset (70_reset_and_hazards.md R221). -/

namespace Sys2Proof.Machine

/-- STATUS (R24). Its reserved bits read 0 and are held nowhere. -/
structure Status where
  busy : Bool
  done : Bool
  err : Bool
  rej : Bool
  errCode : ErrorCode
deriving DecidableEq, Repr

/-- The host-writable registers and ERRINFO (R23, R25 to R29). -/
structure Regs where
  /-- CTRL bit 0, IE. CTRL's reserved bits read 0 and are held nowhere (R23). -/
  ie : Bool
  cmd : Word
  srcAddr : Word
  len : Word
  dstAddr : Word
  errInfo : Word
deriving DecidableEq, Repr

/-- What acceptance latches: `L_CMD`, `L_SRC`, `L_LEN`, `L_DST` (R39). The last two fields are the
model's own (log 6, log 8): the buffer memory as it stood at acceptance, which every check and
read of the command is made on (R72, R191), and the draw that fixes its never-written bytes. -/
structure Latch where
  cmd : Word
  src : Word
  len : Word
  dst : Word
  mem : List Host.Cell
  draw : Nat
deriving DecidableEq, Repr

/-- The compression datapath's host-invisible state (R37, R38, R40). -/
structure Work where
  /-- The working variables `a..h`. -/
  vars : Digest
  /-- The message schedule `W[0..63]`. -/
  w : Vector Word 64
  blockIdx : Nat
  bytePos : Nat
  /-- The compression round index `t`. -/
  round : Fin 64
deriving DecidableEq, Repr

/-- The Merkle unit's host-invisible state (R40, R41). -/
structure Tree where
  /-- `LAYER[0 .. MAX_LEAVES-1]`. -/
  layer : List Digest
  leafIdx : Nat
  /-- The layer length `n`. -/
  layerLen : Nat
  /-- The pair index `j`. -/
  pairIdx : Nat
deriving DecidableEq, Repr

/-- What the host's ports returned last (model's own; log 9). -/
structure Port where
  rdata : Word
  mdata : Byte
deriving DecidableEq, Repr

/-- Everything the spec gives the block, and the model's own fields `latch.mem`, `latch.draw`,
`tainted`, `draws`, `agenda` and `port`. `K`, `IV` and ID are constants; IRQ is computed (R34). -/
structure State where
  params : Params
  regs : Regs
  status : Status
  /-- `H0..H7` (R32). -/
  h : Digest
  latch : Latch
  work : Work
  tree : Tree
  /-- The buffer memory (20_memory.md R60). -/
  mem : List Host.Cell
  /-- HAZARD, the model-only fault record (R42). -/
  hazard : Bool
  /-- A hazard write has hit the running command, so its result is undefined (R232; log 7). -/
  tainted : Bool
  /-- How many free values have been drawn (log 5). -/
  draws : Nat
  port : Port
  /-- The steps still to come, first first (00_scope.md R11; log 1). -/
  agenda : List Event
deriving DecidableEq, Repr

/-- No step stops with a fault: an error is a completion (60_exceptions.md R193) and HAZARD is a
record (R42). 93_implementation_defined.md: "`stuck` is not used: no behaviour of this block hangs". -/
inductive Fault where
deriving DecidableEq, Repr

/-- Why a step is refused. All but the first are host transactions that are no part of the
interface, which R20 and R61 tell a model to refuse; each is safe, since the run stops there. -/
inductive Refusal where
  /-- `exec`: no meaning is given yet. Safe. -/
  | notModelled (mnemonic : String)
  /-- `hostStep`: a register access not 32 bits wide (R20). Safe. -/
  | registerWidth
  /-- `hostStep`: a register offset that is no multiple of 4 (R20). Safe. -/
  | registerAlignment
  /-- `hostStep`: an address outside the register window (R20). Safe. -/
  | registerWindow
  /-- `hostStep`: a memory-port access at or above MEM_BYTES (R61). Safe. -/
  | memoryAddress
deriving DecidableEq, Repr

/-- STATUS after reset (R24). -/
def Status.reset : Status :=
  { busy := false, done := false, err := false, rej := false, errCode := .noError }

/-- The registers after reset (R21). -/
def Regs.reset : Regs :=
  { ie := false, cmd := 0, srcAddr := 0, len := 0, dstAddr := 0, errInfo := 0 }

/-- A digest of zeros. -/
def zeroDigest : Digest :=
  { h0 := 0, h1 := 0, h2 := 0, h3 := 0, h4 := 0, h5 := 0, h6 := 0, h7 := 0 }

/-- Power-on: nothing accepted. DESIGN CHOICE, zeros (log 4). -/
def Latch.zero : Latch := { cmd := 0, src := 0, len := 0, dst := 0, mem := [], draw := 0 }

/-- Power-on. DESIGN CHOICE, zeros (log 4). -/
def Work.zero : Work :=
  { vars := zeroDigest, w := Vector.replicate 64 0, blockIdx := 0, bytePos := 0, round := 0 }

/-- Power-on, a buffer of `n` entries. DESIGN CHOICE, zeros (log 4). -/
def Tree.zero (n : Nat) : Tree :=
  { layer := List.replicate n zeroDigest, leafIdx := 0, layerLen := 0, pairIdx := 0 }

/-- An instance with the parameters given, after power-on reset (70_reset_and_hazards.md R221,
20_memory.md R76). -/
def State.powerOn (p : Params) : State :=
  { params := p, regs := Regs.reset, status := Status.reset, h := initialHash
    latch := Latch.zero, work := Work.zero, tree := Tree.zero p.maxLeaves
    mem := [], hazard := false, tainted := false, draws := 0
    port := { rdata := 0, mdata := 0 }, agenda := [] }

/-- The machine right after reset, for the instance of the examples (log 2). -/
def State.reset : State := State.powerOn Params.ofExamples

end Sys2Proof.Machine
end

