-- ==== Sys2Proof/Machine/Flags.lean ====
section
/-! DEFINITION. STATUS, CTRL and IRQ: the views of the flags and every change of them
(10_state.md R23, R24, R34, 30_encoding.md R84, 60_exceptions.md R190 to R197). -/

namespace Sys2Proof.Machine

/-- The numbers of R190. -/
def codeNumber : ErrorCode → Nat
  | .noError => 0
  | .emptyInput => 1
  | .illegalCmd => 2
  | .srcRange => 3
  | .dstRange => 4
  | .leafRange => 5
  | .leafCount => 6

/-- A flag as the bit at a place of a word. -/
def flagBit (b : Bool) (place : Nat) : Word := (BitVec.ofBool b).setWidth 32 <<< place

/-- STATUS as a read returns it (R24). -/
def Status.word (st : Status) : Word :=
  flagBit st.busy 0 ||| flagBit st.done 1 ||| flagBit st.err 2 ||| flagBit st.rej 3 |||
  (BitVec.ofNat 32 (codeNumber st.errCode) <<< 8)

/-- CTRL as a read returns it (R23). -/
def ctrlWord (ie : Bool) : Word := flagBit ie 0

/-- IRQ = CTRL.IE and STATUS.DONE (R34, R197). -/
def State.irq (s : State) : Bool := s.regs.ie && s.status.done

/-- The flags at acceptance; REJ is not changed (30_encoding.md R84). -/
def Status.accepted (st : Status) : Status :=
  { st with busy := true, done := false, err := false, errCode := .noError }

/-- The flags at a successful completion (R194). -/
def Status.completed (st : Status) : Status := { st with busy := false, done := true }

/-- The flags at a completion in error (R193). -/
def Status.failed (st : Status) (code : ErrorCode) : Status :=
  { st with busy := false, done := true, err := true, errCode := code }

/-- A refused write sets REJ and no other flag (R196). -/
def Status.rejected (st : Status) : Status := { st with rej := true }

/-- A host write: 1 clears DONE, ERR, REJ; clearing ERR clears ERRCODE (R24). -/
def Status.written (st : Status) (v : Word) : Status :=
  { st with
    done := st.done && !v.getLsbD 1
    err := st.err && !v.getLsbD 2
    rej := st.rej && !v.getLsbD 3
    errCode := if v.getLsbD 2 then .noError else st.errCode }

end Sys2Proof.Machine
end

