-- ==== Sys2Proof/Machine/Merkle.lean ====
section
/-! DEFINITION. Merkle tree assembly as pure functions (42_merkle.md R171 to R176), the in-place
sequencing of R179, and the informative costs of R180 and 70_reset_and_hazards.md R239. -/

namespace Sys2Proof.Machine

/-- `Node2(x, y)`, over the two hex forms, left first (R172, 90_conflicts.md C3). -/
def node2 (x y : Digest) : Digest := sha256 (hexForm x ++ hexForm y)

/-- `Node1(x)`, the odd digest hashed alone (R173, 90_conflicts.md C2). -/
def node1 (x : Digest) : Digest := sha256 (hexForm x)

/-- One reduction round (R174). -/
def nextLayer : List Digest → List Digest
  | x :: y :: rest => node2 x y :: nextLayer rest
  | [x] => [node1 x]
  | [] => []

/-- `while len(D) > 1: D <- Next(D)`, for at most `fuel` rounds (R175). -/
def reduceLayers : Nat → List Digest → List Digest
  | 0, d => d
  | fuel + 1, d => if d.length > 1 then reduceLayers fuel (nextLayer d) else d

/-- The leaf layer (R171). -/
def leafLayer (vs : List Bytes) : List Digest := vs.map sha256

/-- `MerkleRoot` (R176): zero values are the error EMPTY_INPUT. -/
def merkleRoot (vs : List Bytes) : Except ErrorCode Digest :=
  match reduceLayers vs.length (leafLayer vs) with
  | [] => .error .emptyInput
  | d :: _ => .ok d

/-! ### In-place sequencing -/

/-- `LAYER[j] <- Node2(LAYER[2j], LAYER[2j+1])` (R179). -/
def pairInPlace (layer : List Digest) (j : Nat) : List Digest :=
  layer.set j (node2 (layer.getD (2 * j) initialHash) (layer.getD (2 * j + 1) initialHash))

/-- One round over the first `n` entries (R179). -/
def roundInPlace (layer : List Digest) (n : Nat) : List Digest :=
  let paired := (List.range (n / 2)).foldl pairInPlace layer
  if n % 2 = 1 then paired.set ((n - 1) / 2) (node1 (paired.getD (n - 1) initialHash)) else paired

/-- `while n > 1`, for at most `fuel` rounds (R179). -/
def loopInPlace : Nat → List Digest → Nat → List Digest
  | 0, layer, _ => layer
  | fuel + 1, layer, n =>
    if n > 1 then loopInPlace fuel (roundInPlace layer n) ((n + 1) / 2) else layer

/-- `LAYER[i] <- SHA256(v_i)` for every `i` (R179). -/
def fillInPlace (layer : List Digest) (vs : List Bytes) : List Digest :=
  leafLayer vs ++ layer.drop vs.length

/-- `LAYER[0]` after the reference sequencing of R179 over a buffer. -/
def rootInPlace (layer : List Digest) (vs : List Bytes) : Digest :=
  (loopInPlace vs.length (fillInPlace layer vs) vs.length).getD 0 initialHash

/-! ### Costs in compressions, informative -/

/-- The `Node` compressions of all rounds from a layer of `n` digests: 3 a pair, 2 an odd node
(R180). -/
def reduceCost : Nat → Nat → Nat
  | 0, _ => 0
  | fuel + 1, n =>
    if n > 1 then 3 * (n / 2) + 2 * (n % 2) + reduceCost fuel ((n + 1) / 2) else 0

/-- The compressions of one `merkle` command over values of the lengths given (R180). -/
def merkleCost (lens : List Nat) : Nat :=
  (lens.map nblocks).sum + reduceCost lens.length lens.length

end Sys2Proof.Machine
end

