-- ==== Sys2Proof/Machine/Operands.lean ====
section
/-! DEFINITION. Every operand form: the latched operands (10_state.md R39), the engine's reads of
the buffer memory (20_memory.md R62, R63, R76), the descriptor table (R67), the checks in their
order (60_exceptions.md R191), the output (41_sha256_engine.md R131), and the running command's
read and write sets (70_reset_and_hazards.md R232). -/

namespace Sys2Proof.Machine

/-- `InRange(addr, n)`, over unbounded integers (20_memory.md R68). -/
def inRange (p : Params) (addr n : Nat) : Bool :=
  decide (n = 0) || decide (addr + n ≤ p.memBytes)

/-! ### Latched operands -/

/-- `L_SRC` as an address. -/
def State.src (s : State) : Nat := s.latch.src.toNat

/-- `L_LEN` as a count. -/
def State.len (s : State) : Nat := s.latch.len.toNat

/-- `L_DST` as an address. -/
def State.dst (s : State) : Nat := s.latch.dst.toNat

/-- A byte as the running command reads it: as it stood at acceptance (R72), or a free value where
nothing has been written since power-on (R76). -/
def State.engineByte (s : State) (a : Nat) : Byte :=
  (Memory.get? s.latch.mem a).getD (Config.unwrittenByte s.latch.draw a)

/-- `MemRead(a, n)` of the running command (R63). -/
def State.engineRead (s : State) (a n : Nat) : Bytes :=
  (List.range n).map fun k => s.engineByte (a + k)

/-- A big-endian word read by the running command (R67). -/
def State.engineWord (s : State) (a : Nat) : Word :=
  be32 (s.engineByte a) (s.engineByte (a + 1)) (s.engineByte (a + 2)) (s.engineByte (a + 3))

/-- `addr_i` of descriptor `i` (R67, R170). -/
def State.leafAddr (s : State) (i : Nat) : Nat := (s.engineWord (s.src + 8 * i)).toNat

/-- `len_i` of descriptor `i` (R67, R170). -/
def State.leafLen (s : State) (i : Nat) : Nat := (s.engineWord (s.src + 8 * i + 4)).toNat

/-- `v_i` (R170). -/
def State.leaf (s : State) (i : Nat) : Bytes := s.engineRead (s.leafAddr i) (s.leafLen i)

/-- The values of a `merkle` command in table order (R170). -/
def State.leaves (s : State) : List Bytes := (List.range s.len).map s.leaf

/-! ### Output -/

/-- `outsize(fmt)` (R131). -/
def outSize : OutFmt → Nat
  | .plain => 0
  | .bin => 32
  | .hex => 64

/-- The bytes `Output` writes (R131). -/
def outBytes : OutFmt → Digest → Bytes
  | .plain, _ => []
  | .bin, d => digestBytes d
  | .hex, d => hexForm d

/-- The output format of a command, `L_CMD[5:4]` (R82). -/
def outFmtOf : Instr → OutFmt
  | .nop => .plain
  | .init => .plain
  | .compress => .plain
  | .hash => .plain
  | .hashBin => .bin
  | .hashHex => .hex
  | .merkle => .plain
  | .merkleBin => .bin
  | .merkleHex => .hex
  | .storeBin => .bin
  | .storeHex => .hex

/-! ### Checks -/

/-- A failed check: the code and the ERRINFO value (R190). -/
abbrev Failure := ErrorCode × Word

/-- The checks of `compress` (R142). -/
def State.compressCheck (s : State) : Option Failure :=
  if !inRange s.params s.src 64 then some (.srcRange, 0) else none

/-- The checks of `hash*` (R143). -/
def State.hashCheck (s : State) (fmt : OutFmt) : Option Failure :=
  if !inRange s.params s.src s.len then some (.srcRange, 0)
  else if !inRange s.params s.dst (outSize fmt) then some (.dstRange, 0)
  else none

/-- The first descriptor, in index order, whose range is out of memory (R178, R191). -/
def State.firstBadLeaf (s : State) : Option Nat :=
  (List.range s.len).find? fun i => !inRange s.params (s.leafAddr i) (s.leafLen i)

/-- The checks of `merkle*` made before the table is read (R178). -/
def State.tableCheck (s : State) (fmt : OutFmt) : Option Failure :=
  if s.len = 0 then some (.emptyInput, 0)
  else if s.params.maxLeaves < s.len then some (.leafCount, 0)
  else if !inRange s.params s.src (8 * s.len) then some (.srcRange, 0)
  else if !inRange s.params s.dst (outSize fmt) then some (.dstRange, 0)
  else none

/-- The checks of `merkle*` (R178). -/
def State.merkleCheck (s : State) (fmt : OutFmt) : Option Failure :=
  match s.tableCheck fmt with
  | some e => some e
  | none => s.firstBadLeaf.map fun i => (.leafRange, BitVec.ofNat 32 i)

/-- The checks of `store.*` (R144). -/
def State.storeCheck (s : State) (fmt : OutFmt) : Option Failure :=
  if !inRange s.params s.dst (outSize fmt) then some (.dstRange, 0) else none

/-- The first failing check of a command, by its family (R191). -/
def State.check (s : State) : Instr → Option Failure
  | .nop => none
  | .init => none
  | .compress => s.compressCheck
  | .hash => s.hashCheck .plain
  | .hashBin => s.hashCheck .bin
  | .hashHex => s.hashCheck .hex
  | .merkle => s.merkleCheck .plain
  | .merkleBin => s.merkleCheck .bin
  | .merkleHex => s.merkleCheck .hex
  | .storeBin => s.storeCheck .bin
  | .storeHex => s.storeCheck .hex

/-! ### What a command reads and writes -/

/-- A range of addresses: its first and its length. -/
abbrev AddrRange := Nat × Nat

/-- The address lies in one of the ranges. -/
def covers (rs : List AddrRange) (a : Nat) : Bool :=
  rs.any fun r => decide (r.1 ≤ a) && decide (a < r.1 + r.2)

/-- The descriptors `0 .. n - 1` as ranges. -/
def State.tableRange (s : State) (n : Nat) : AddrRange := (s.src, 8 * n)

/-- The leaf ranges (R178). -/
def State.leafRanges (s : State) : List AddrRange :=
  (List.range s.len).map fun i => (s.leafAddr i, s.leafLen i)

/-- The bytes `merkle*` reads: the table and the leaves, or, when a leaf is out of range, the
descriptors up to that one; none before the table is reached (R178, R191; 00_scope.md R10). -/
def State.merkleReads (s : State) (fmt : OutFmt) : List AddrRange :=
  match s.tableCheck fmt with
  | some _ => []
  | none =>
    match s.firstBadLeaf with
    | some i => [s.tableRange (i + 1)]
    | none => s.tableRange s.len :: s.leafRanges

/-- The read set of a command that has passed its checks (R142 to R144, R178). -/
def State.readSet (s : State) : Instr → List AddrRange
  | .nop => []
  | .init => []
  | .compress => [(s.src, 64)]
  | .hash => [(s.src, s.len)]
  | .hashBin => [(s.src, s.len)]
  | .hashHex => [(s.src, s.len)]
  | .merkle => s.tableRange s.len :: s.leafRanges
  | .merkleBin => s.tableRange s.len :: s.leafRanges
  | .merkleHex => s.tableRange s.len :: s.leafRanges
  | .storeBin => []
  | .storeHex => []

/-- The write set of a command in the buffer memory (R131). -/
def State.writeSet (s : State) (i : Instr) : List AddrRange := [(s.dst, outSize (outFmtOf i))]

/-- Some byte of the ranges had never been written at acceptance (R76). -/
def State.readsUnwritten (s : State) (rs : List AddrRange) : Bool :=
  rs.any fun r => (List.range r.2).any fun k => (Memory.get? s.latch.mem (r.1 + k)).isNone

/-- The command that is running, whether or not its checks will pass; none for an illegal word. -/
def State.current (s : State) : Option Instr :=
  if s.status.busy then
    match decode s.latch.cmd with
    | .ok i => some i
    | .error _ => none
  else none

/-- The command that is running and has passed its checks; a command that has failed a check has
empty read and write sets for the writes of R232. -/
def State.running (s : State) : Option Instr :=
  s.current.filter fun i => (s.check i).isNone

/-- The address is in the running command's read set (R232). -/
def State.inReadSet (s : State) (a : Nat) : Bool :=
  match s.running with
  | some i => covers (s.readSet i) a
  | none => false

/-- The address is in the running command's write set for the writes of R232. -/
def State.inWriteSet (s : State) (a : Nat) : Bool :=
  match s.running with
  | some i => covers (s.writeSet i) a
  | none => false

/-- The address is in the running command's write set for the reads of R234: the output range its rule
states, whether or not its checks will pass, since R232 empties the set for its own rule only (log 26). -/
def State.isUnfinished (s : State) (a : Nat) : Bool :=
  match s.current with
  | some i => covers (s.writeSet i) a
  | none => false

end Sys2Proof.Machine
end

