-- ==== Sys2Proof/Machine/Ops.lean ====
section
/-! DEFINITION. The shared operations over the state: acceptance (30_encoding.md R84), completion in
error and its acknowledgement (60_exceptions.md R193, R195), successful completion (R194), refused
writes (R196), the delivery of a result, and draws. -/

namespace Sys2Proof.Machine

/-! ### Draws -/

/-- A digest of eight free words. -/
def freeDigest (n : Nat) : Digest :=
  { h0 := Config.freeWord n 0, h1 := Config.freeWord n 1, h2 := Config.freeWord n 2
    h3 := Config.freeWord n 3, h4 := Config.freeWord n 4, h5 := Config.freeWord n 5
    h6 := Config.freeWord n 6, h7 := Config.freeWord n 7 }

/-- `k` free bytes. -/
def freeBytes (n k : Nat) : Bytes := (List.range k).map fun i => Config.freeByte n i

/-- Latches of free values: what they hold after reset and while idle is unspecified (R39, R221). -/
def freeLatch (n : Nat) : Latch :=
  { cmd := Config.freeWord n 80, src := Config.freeWord n 81, len := Config.freeWord n 82
    dst := Config.freeWord n 83, mem := [], draw := n }

/-- The compression datapath's state outside a compression: free values (R37, R38, R40). -/
def freeWork (n : Nat) : Work :=
  { vars := freeDigest n
    w := Vector.ofFn fun i : Fin 64 => Config.freeWord n (8 + i.val)
    blockIdx := (Config.freeWord n 72).toNat
    bytePos := (Config.freeWord n 73).toNat
    round := Fin.ofNat 64 (Config.freeWord n 74).toNat }

/-- The Merkle unit's state between commands: free values (R40, R41). -/
def freeTree (n leaves : Nat) : Tree :=
  { layer := (List.range leaves).map fun k => freeDigest (n + 1 + k)
    leafIdx := (Config.freeWord n 75).toNat
    layerLen := (Config.freeWord n 76).toNat
    pairIdx := (Config.freeWord n 77).toNat }

/-- The datapath has been used: what it holds is unspecified (R37, R38, R40). -/
def State.scrambleWork (s : State) : State :=
  { s with work := freeWork s.draws, draws := s.draws + 1 }

/-- The Merkle unit has been used: what it holds is unspecified (R40, R41). -/
def State.scrambleTree (s : State) : State :=
  { s with
    tree := freeTree s.draws s.params.maxLeaves
    draws := s.draws + s.params.maxLeaves + 1 }

/-! ### Acceptance -/

/-- A command word is accepted; the latches take the operands and the memory as they stand
(R39, R72, R84). -/
def State.accept (s : State) (c : Word) : State :=
  { s with
    latch := { cmd := c, src := s.regs.srcAddr, len := s.regs.len, dst := s.regs.dstAddr,
               mem := s.mem, draw := s.draws }
    regs := { s.regs with cmd := c, errInfo := 0 }
    status := s.status.accepted
    tainted := false
    draws := s.draws + 1 }

/-- A write is refused because BUSY = 1 (R196). -/
def State.reject (s : State) : State := { s with status := s.status.rejected }

/-! ### Taking an error completion, and the return from it -/

/-- `raise Error(code, info)`, the block's one exception entry (R193). The engine is idle then, so
what the latches hold is unspecified (R39). -/
def State.raiseError (s : State) (code : ErrorCode) (info : Word) : State :=
  { s with
    status := s.status.failed code
    regs := { s.regs with errInfo := info }
    latch := freeLatch s.draws
    tainted := false
    draws := s.draws + 1 }

/-- The return: the host's write to STATUS; clearing ERR clears ERRINFO too (R24, R29, R195). -/
def State.acknowledge (s : State) (v : Word) : State :=
  { s with
    status := s.status.written v
    regs := { s.regs with errInfo := if v.getLsbD 2 then 0 else s.regs.errInfo } }

/-! ### Successful completion -/

/-- `complete()` (R194). The engine is idle then, so what the latches hold is unspecified (R39). -/
def State.complete (s : State) : State :=
  { s with
    status := s.status.completed
    latch := freeLatch s.draws
    tainted := false
    draws := s.draws + 1 }

/-- The words written to `H`: the result, or free values after a hazard write (R232). -/
def State.settledDigest (s : State) (d : Digest) : Digest :=
  if s.tainted then freeDigest s.draws else d

/-- The bytes written to the output range: the output of the result, or free values after a hazard
write (R131, R232). -/
def State.settledOutput (s : State) (fmt : OutFmt) (d : Digest) : Bytes :=
  if s.tainted then freeBytes s.draws (outSize fmt) else outBytes fmt d

/-- Write `H` and the output, then complete: the writes of a command take effect together (R131,
R194, 20_memory.md R70, R71). -/
def State.deliver (s : State) (fmt : OutFmt) (d : Digest) : State :=
  State.complete { s with
    h := s.settledDigest d
    mem := Memory.writeBytes s.mem s.dst (s.settledOutput fmt d)
    draws := s.draws + 1 }

/-- Reading a never-written byte sets HAZARD (20_memory.md R76). -/
def State.noteReads (s : State) (rs : List AddrRange) : State :=
  { s with hazard := s.hazard || s.readsUnwritten rs }

end Sys2Proof.Machine
end

