-- ==== Sys2Proof/Machine/HashUnit.lean ====
section
/-! DEFINITION. The commands of the hash unit (41_sha256_engine.md R140 to R144), each as its
completion step (00_scope.md R11). -/

namespace Sys2Proof.Machine

/-- `nop`: nothing but a completion (R140). -/
def execNop (s : State) : Host.Outcome State Fault Refusal := .next s.complete

/-- `init`: `H <- IV` (R141). -/
def execInit (s : State) : Host.Outcome State Fault Refusal :=
  .next (State.complete { s with h := initialHash })

/-- The completion of `compress`, in error or not (R142). -/
def State.compressed (s : State) : State :=
  match s.compressCheck with
  | some e => s.raiseError e.1 e.2
  | none =>
    ((s.noteReads [(s.src, 64)]).scrambleWork).deliver .plain
      (compressBlock s.h (s.engineRead s.src 64))

/-- `compress`: one compression of the block at `L_SRC` into `H`, no padding (R142). -/
def execCompress (s : State) : Host.Outcome State Fault Refusal := .next s.compressed

/-- The completion of `hash*`, in error or not (R143). -/
def State.hashed (s : State) (fmt : OutFmt) : State :=
  match s.hashCheck fmt with
  | some e => s.raiseError e.1 e.2
  | none =>
    ((s.noteReads [(s.src, s.len)]).scrambleWork).deliver fmt (sha256 (s.engineRead s.src s.len))

/-- `hash` (R143). -/
def execHash (s : State) : Host.Outcome State Fault Refusal := .next (s.hashed .plain)

/-- `hash.bin` (R143). -/
def execHashBin (s : State) : Host.Outcome State Fault Refusal := .next (s.hashed .bin)

/-- `hash.hex` (R143). -/
def execHashHex (s : State) : Host.Outcome State Fault Refusal := .next (s.hashed .hex)

/-- The completion of `store.*`, in error or not (R144). -/
def State.stored (s : State) (fmt : OutFmt) : State :=
  match s.storeCheck fmt with
  | some e => s.raiseError e.1 e.2
  | none => s.deliver fmt s.h

/-- `store.bin` (R144). -/
def execStoreBin (s : State) : Host.Outcome State Fault Refusal := .next (s.stored .bin)

/-- `store.hex` (R144). -/
def execStoreHex (s : State) : Host.Outcome State Fault Refusal := .next (s.stored .hex)

end Sys2Proof.Machine
end

