-- ==== Sys2Proof/Machine/MerkleUnit.lean ====
section
/-! DEFINITION. The commands of the Merkle unit (42_merkle.md R178), each as its completion step
(00_scope.md R11). -/

namespace Sys2Proof.Machine

/-- The completion of `merkle*`, in error or not (R176, R178). The table is read by the last check
too, so reads are noted in either case (20_memory.md R76). -/
def State.merkled (s : State) (fmt : OutFmt) : State :=
  match s.merkleCheck fmt with
  | some e => (s.noteReads (s.merkleReads fmt)).raiseError e.1 e.2
  | none =>
    match merkleRoot s.leaves with
    | .error code => s.raiseError code 0
    | .ok root =>
      ((s.noteReads (s.merkleReads fmt)).scrambleWork.scrambleTree).deliver fmt root

/-- `merkle` (R178). -/
def execMerkle (s : State) : Host.Outcome State Fault Refusal := .next (s.merkled .plain)

/-- `merkle.bin` (R178). -/
def execMerkleBin (s : State) : Host.Outcome State Fault Refusal := .next (s.merkled .bin)

/-- `merkle.hex` (R178). -/
def execMerkleHex (s : State) : Host.Outcome State Fault Refusal := .next (s.merkled .hex)

end Sys2Proof.Machine
end

