-- ==== Sys2Proof/Machine/Dispatch.lean ====
section
/-! DEFINITION. One arm per command (30_encoding.md R83): the completion step of the command. -/

namespace Sys2Proof.Machine

def exec (i : Instr) (s : State) : Host.Outcome State Fault Refusal :=
  match i with
  | .nop => Sys2Proof.Machine.execNop s
  | .init => Sys2Proof.Machine.execInit s
  | .compress => Sys2Proof.Machine.execCompress s
  | .hash => Sys2Proof.Machine.execHash s
  | .hashBin => Sys2Proof.Machine.execHashBin s
  | .hashHex => Sys2Proof.Machine.execHashHex s
  | .merkle => Sys2Proof.Machine.execMerkle s
  | .merkleBin => Sys2Proof.Machine.execMerkleBin s
  | .merkleHex => Sys2Proof.Machine.execMerkleHex s
  | .storeBin => Sys2Proof.Machine.execStoreBin s
  | .storeHex => Sys2Proof.Machine.execStoreHex s

end Sys2Proof.Machine
end

