-- ==== Sys2Proof/Machine/HostPort.lean ====
section
/-! DEFINITION. The host's steps: register transactions (10_state.md R20 to R33), memory-port
transactions (20_memory.md R61) and reset (70_reset_and_hazards.md R220 to R222). -/

namespace Sys2Proof.Machine

/-! ### The register map -/

/-- The offsets of R21. -/
def regOffset : RegName → Nat
  | .id => 0x000
  | .ctrl => 0x004
  | .status => 0x008
  | .cmd => 0x00C
  | .srcAddr => 0x010
  | .len => 0x014
  | .dstAddr => 0x018
  | .errInfo => 0x01C
  | .capMem => 0x020
  | .capLeaves => 0x024
  | .h i => 0x040 + 4 * i.val

/-- The register at an aligned offset, or none where the offset is reserved (R21, R33). -/
def regAt (off : Nat) : Option RegName :=
  if off = 0x000 then some .id
  else if off = 0x004 then some .ctrl
  else if off = 0x008 then some .status
  else if off = 0x00C then some .cmd
  else if off = 0x010 then some .srcAddr
  else if off = 0x014 then some .len
  else if off = 0x018 then some .dstAddr
  else if off = 0x01C then some .errInfo
  else if off = 0x020 then some .capMem
  else if off = 0x024 then some .capLeaves
  else if 0x040 ≤ off ∧ off < 0x060 then some (.h (Fin.ofNat 8 ((off - 0x040) / 4)))
  else none

/-- The offset of an access, or why it is no part of the interface (R20). -/
def regAccess (p : Params) (addr bits : Nat) : Except Refusal Nat :=
  if addr < p.regBase ∨ p.regBase + 256 ≤ addr then .error .registerWindow
  else if bits ≠ 32 then .error .registerWidth
  else if (addr - p.regBase) % 4 ≠ 0 then .error .registerAlignment
  else .ok (addr - p.regBase)

/-- ID (R22). -/
def idWord : Word := 0x534D4501

/-- What a read of a register returns while it is exact (R22 to R32). -/
def State.regValue (s : State) : RegName → Word
  | .id => idWord
  | .ctrl => ctrlWord s.regs.ie
  | .status => s.status.word
  | .cmd => s.regs.cmd
  | .srcAddr => s.regs.srcAddr
  | .len => s.regs.len
  | .dstAddr => s.regs.dstAddr
  | .errInfo => s.regs.errInfo
  | .capMem => BitVec.ofNat 32 s.params.memBytes
  | .capLeaves => BitVec.ofNat 32 s.params.maxLeaves
  | .h i => digestWord s.h i

/-! ### Register transactions -/

/-- The register port returns a word, or a draw. -/
def State.answerWord (s : State) : Option Word → State
  | some v => { s with port := { s.port with rdata := v } }
  | none =>
    { s with port := { s.port with rdata := Config.freeWord s.draws 0 }, draws := s.draws + 1 }

/-- What a read of a register answers: a draw for `H` while BUSY (R32, R234), the exact value
otherwise (R235). -/
def State.regAnswer (s : State) : RegName → Option Word
  | .h i => if s.status.busy then none else some (digestWord s.h i)
  | r => some (s.regValue r)

/-- A register read at an offset of the window; a reserved offset reads 0 (R33). -/
def State.readOffset (s : State) (off : Nat) : State :=
  match regAt off with
  | some r => s.answerWord (s.regAnswer r)
  | none => s.answerWord (some 0)

/-- A write of one register (R22 to R32, R84, R196). -/
def State.writeReg (s : State) (r : RegName) (v : Word) : State :=
  match r with
  | .id => s
  | .ctrl => { s with regs := { s.regs with ie := v.getLsbD 0 } }
  | .status => s.acknowledge v
  | .cmd => if s.status.busy then s.reject else s.accept v
  | .srcAddr => { s with regs := { s.regs with srcAddr := v } }
  | .len => { s with regs := { s.regs with len := v } }
  | .dstAddr => { s with regs := { s.regs with dstAddr := v } }
  | .errInfo => s
  | .capMem => s
  | .capLeaves => s
  | .h i => if s.status.busy then s.reject else { s with h := setDigestWord s.h i v }

/-- A register write at an offset of the window; at a reserved offset it is ignored (R33). -/
def State.writeOffset (s : State) (off : Nat) (v : Word) : State :=
  match regAt off with
  | some r => s.writeReg r v
  | none => s

/-! ### Memory-port transactions -/

/-- The memory port returns a byte, or a draw. -/
def State.answerByte (s : State) : Option Byte → State
  | some b => { s with port := { s.port with mdata := b } }
  | none =>
    { s with port := { s.port with mdata := Config.freeByte s.draws 0 }, draws := s.draws + 1 }

/-- A host read of a byte: a draw in the output range of the running command (R234, log 26) and where
nothing has been written since power-on (20_memory.md R76), the stored byte otherwise (R235). -/
def State.readByte (s : State) (a : Nat) : State :=
  s.answerByte (if s.isUnfinished a then none else Memory.get? s.mem a)

/-- A host write of a byte; in the running command's read or write set it is a hazard the hardware
does not check (R232). -/
def State.writeByte (s : State) (a : Nat) (v : Byte) : State :=
  let hit := s.inReadSet a || s.inWriteSet a
  { s with
    mem := Memory.write s.mem a v
    hazard := s.hazard || hit
    tainted := s.tainted || hit }

/-! ### Reset -/

/-- The buffer memory after a reset: kept, but for the output bytes of an abandoned command that had
passed its checks, each a draw that counts as written (R221, R222). -/
def State.memAfterReset (s : State) : List Host.Cell :=
  match s.running with
  | some i => Memory.writeBytes s.mem s.dst (freeBytes s.draws (outSize (outFmtOf i)))
  | none => s.mem

/-- The assertion of reset (R220 to R222). HAZARD, the parameters, the host's ports and the steps
still to come are not the block's registers and stay. -/
def State.hostReset (s : State) : State :=
  { s with
    regs := Regs.reset
    status := Status.reset
    h := initialHash
    latch := freeLatch s.draws
    work := freeWork s.draws
    tree := freeTree s.draws s.params.maxLeaves
    mem := s.memAfterReset
    tainted := false
    draws := s.draws + s.params.maxLeaves + 1 }

/-! ### One host step -/

/-- One host step (00_scope.md R11), or the refusal of what is no part of the interface (R20, R61). -/
def hostStep (a : HostAction) (s : State) : Host.Outcome State Fault Refusal :=
  match a with
  | .regRead addr bits =>
    match regAccess s.params addr bits with
    | .ok off => .next (s.readOffset off)
    | .error r => .refused r
  | .regWrite addr bits v =>
    match regAccess s.params addr bits with
    | .ok off => .next (s.writeOffset off v)
    | .error r => .refused r
  | .memRead a =>
    if a < s.params.memBytes then .next (s.readByte a) else .refused .memoryAddress
  | .memWrite a v =>
    if a < s.params.memBytes then .next (s.writeByte a v) else .refused .memoryAddress
  | .reset => .next s.hostReset

end Sys2Proof.Machine
end

