-- ==== Sys2Proof/Machine/HostProgram.lean ====
section
/-! DEFINITION. The host program notation as agenda entries (30_encoding.md R88) and the
pseudo-instructions (R89). -/

namespace Sys2Proof.Machine

/-- A register read as a transaction. -/
def rdEvent (p : Params) (r : RegName) : Event := .host (.regRead (p.regBase + regOffset r) 32)

/-- A register write as a transaction. -/
def wrEvent (p : Params) (r : RegName) (v : Word) : Event :=
  .host (.regWrite (p.regBase + regOffset r) 32 v)

/-- One byte write per transaction, at rising addresses (R88). -/
def byteEvents (a : Nat) : Bytes → List Event
  | [] => []
  | b :: bs => .host (.memWrite a b) :: byteEvents (a + 1) bs

/-- The events of a statement (R88). `wait` is its polls that find BUSY set, the engine's turn, and
the poll that finds BUSY clear: one admitted run for each number of polls (70_reset_and_hazards.md
R238). -/
def stmtEvents (p : Params) : Stmt → List Event
  | .wr r v => [wrEvent p r v]
  | .rd r => [rdEvent p r]
  | .mb a bs => byteEvents a bs
  | .mw a ws => byteEvents a (ws.flatMap fun w => beBytes w.toNat 4)
  | .command i => [wrEvent p .cmd (encode i)]
  | .wait polls => List.replicate polls (rdEvent p .status) ++ [.engine, rdEvent p .status]
  | .clr => [wrEvent p .status 0x0000000E]

/-- The events of a program, for the runs in which a command completes inside the `wait` that follows it.
DESIGN CHOICE (log 25): the spec leaves open when a command completes (R231, R238). -/
def programEvents (p : Params) (prog : List Stmt) : List Event := prog.flatMap (stmtEvents p)

/-- The same events with engine turns put in, as many before each event as the list says: a program's
other runs, such as run A of 95_test_vectors.md P9 (log 25). -/
def withTurns : List Nat → List Event → List Event
  | _, [] => []
  | [], e :: es => e :: es
  | n :: ns, e :: es => List.replicate n .engine ++ e :: withTurns ns es

/-- `hash` with a suffix (R83). -/
def hashInstr : OutFmt → Instr
  | .plain => .hash
  | .bin => .hashBin
  | .hex => .hashHex

/-- `merkle` with a suffix (R83). -/
def merkleInstr : OutFmt → Instr
  | .plain => .merkle
  | .bin => .merkleBin
  | .hex => .merkleHex

/-- `store` with a suffix; there is none without (R83). -/
def storeInstr : OutFmt → Option Instr
  | .plain => none
  | .bin => some .storeBin
  | .hex => some .storeHex

/-- The write of DST_ADDR, where `dst` is given (R89). -/
def dstStmt : Option Word → List Stmt
  | some d => [.wr .dstAddr d]
  | none => []

/-- The expansions of R89, `polls` being those of the `wait`; none for an ill-formed one. -/
def expandPseudo (polls : Nat) (x : Pseudo) : Option (List Stmt) :=
  if !x.wf then none
  else
    match x with
    | .sha256 fmt src len dst =>
      some ([.wr .srcAddr src, .wr .len len] ++ dstStmt dst ++
        [.command (hashInstr fmt), .wait polls])
    | .root fmt tbl n dst =>
      some ([.wr .srcAddr tbl, .wr .len n] ++ dstStmt dst ++
        [.command (merkleInstr fmt), .wait polls])
    | .block src => some [.wr .srcAddr src, .command .compress, .wait polls]
    | .dump fmt dst =>
      (storeInstr fmt).map fun i => [.wr .dstAddr dst, .command i, .wait polls]
    | .restart => some [.command .init, .wait polls]

end Sys2Proof.Machine
end

