-- ==== Sys2Proof/Machine/Step.lean ====
section
/-! DEFINITION. One step of the machine: the host's next transaction or the engine's turn, in the
order of the agenda (00_scope.md R11, 60_exceptions.md R198, R200). -/

namespace Sys2Proof.Machine

/-- The engine's turn. A running command completes: a legal word as its command (R194), an illegal
one with ILLEGAL_CMD (30_encoding.md R85). An idle engine does nothing (R206). -/
def engineStep (s : State) : Host.Outcome State Fault Refusal :=
  if s.status.busy then
    match decode s.latch.cmd with
    | .ok i => exec i s
    | .error _ => .next (s.raiseError .illegalCmd 0)
  else .next s

/-- The state once its next agenda entry has been taken off. -/
def State.afterTake (s : State) : State := { s with agenda := s.agenda.tail }

/-- One step. With nothing left in the agenda the engine has its turn, so every accepted command
completes (R200). -/
def step (s : State) : Host.Outcome State Fault Refusal :=
  match s.agenda with
  | [] => engineStep s
  | .engine :: _ => engineStep s.afterTake
  | .host a :: _ => hostStep a s.afterTake

/-- The state whose very next step runs the command word given: the word has just been accepted
(30_encoding.md R84) and the engine's turn comes next (log 3). -/
def State.withFetchWord (s : State) (nbits w : Nat) : State :=
  { s.accept (tableWord nbits w) with agenda := .engine :: s.agenda }

end Sys2Proof.Machine
end

