-- ==== Sys2Proof/Safety.lean ====
section
/-! DEFINITION. What claims take as their premises: the invariant of the machine (10_state.md R24,
R29, R41, 20_memory.md R60) and a run free of hazards (R42). -/

namespace Sys2Proof.Machine

/-- `ERR = 0` if and only if `ERRCODE = 0`, and ERRINFO is 0 unless the code is LEAF_RANGE (R24, R29). -/
abbrev State.errorsAgree (s : State) : Prop :=
  (s.status.err = false ↔ s.status.errCode = .noError) ∧
  (s.regs.errInfo ≠ 0 → s.status.errCode = .leafRange)

/-- `BUSY = 1` implies `DONE = 0` and `ERR = 0` (R24). -/
abbrev State.busyQuiet (s : State) : Prop :=
  s.status.busy = true → s.status.done = false ∧ s.status.err = false

/-- The buffer memory and its copy at acceptance are in canonical form and lie in the memory
(R60). -/
abbrev State.memoryOk (s : State) : Prop :=
  Memory.wf s.mem = true ∧ Memory.within s.params.memBytes s.mem = true ∧
  Memory.wf s.latch.mem = true ∧ Memory.within s.params.memBytes s.latch.mem = true

/-- The invariant every step keeps. -/
structure State.Inv (s : State) : Prop where
  params : s.params.wf = true
  errors : s.errorsAgree
  quiet : s.busyQuiet
  memory : s.memoryOk
  /-- The layer buffer has MAX_LEAVES entries (R41). -/
  layer : s.tree.layer.length = s.params.maxLeaves
  /-- Only a running command can be hit by a hazard write, which sets HAZARD (R232). -/
  taint : s.tainted = true → s.status.busy = true ∧ s.hazard = true

/-- A command is running and nothing has been reported yet: what acceptance leaves (30_encoding.md
R84) and, by the invariant, what holds for as long as BUSY = 1. -/
structure State.Accepted (s : State) : Prop where
  busy : s.status.busy = true
  done : s.status.done = false
  err : s.status.err = false
  code : s.status.errCode = .noError
  info : s.regs.errInfo = 0

/-- STATUS after a successful completion (R194), REJ as it was. -/
def Status.success (st : Status) : Status :=
  { busy := false, done := true, err := false, rej := st.rej, errCode := .noError }

/-- STATUS after a completion in error (R193), REJ as it was. -/
def Status.failure (st : Status) (code : ErrorCode) : Status :=
  { busy := false, done := true, err := true, rej := st.rej, errCode := code }

/-- What no command writes: the parameters, CTRL, CMD, the operand registers, REJ, the host's ports and
the steps still to come. -/
structure State.HostSideKept (s t : State) : Prop where
  params : t.params = s.params
  ie : t.regs.ie = s.regs.ie
  cmd : t.regs.cmd = s.regs.cmd
  srcAddr : t.regs.srcAddr = s.regs.srcAddr
  len : t.regs.len = s.regs.len
  dstAddr : t.regs.dstAddr = s.regs.dstAddr
  rej : t.status.rej = s.status.rej
  port : t.port = s.port
  agenda : t.agenda = s.agenda

/-- Every byte of the buffer memory outside `n` bytes at `a` reads as before. -/
def State.memoryKeptOutside (s t : State) (a n : Nat) : Prop :=
  ∀ b, (b < a ∨ a + n ≤ b) → Memory.get? t.mem b = Memory.get? s.mem b

/-- A completion in error: `code` and `info` are recorded, and nothing the host can see changes but
STATUS and ERRINFO (60_exceptions.md R192, R193). That the datapath and the Merkle unit are kept whole is
the model's choice (log 15). -/
structure State.FailsWith (s t : State) (code : ErrorCode) (info : Word) : Prop where
  status : t.status = s.status.failure code
  errInfo : t.regs.errInfo = info
  h : t.h = s.h
  work : t.work = s.work
  tree : t.tree = s.tree
  mem : t.mem = s.mem
  host : s.HostSideKept t

/-- A successful completion: `d` in `H`, the bytes of `fmt` at `L_DST`, every other byte kept, no
error, ERRINFO as it was. -/
structure State.SucceedsWith (s t : State) (fmt : OutFmt) (d : Digest) : Prop where
  status : t.status = s.status.success
  errInfo : t.regs.errInfo = s.regs.errInfo
  h : t.h = d
  output : ∀ k, k < outSize fmt → Memory.get? t.mem (s.dst + k) = (outBytes fmt d)[k]?
  outside : s.memoryKeptOutside t s.dst (outSize fmt)
  host : s.HostSideKept t

/-- `k` steps, stopping at the first refusal. -/
def runSteps : Nat → State → Host.Outcome State Fault Refusal
  | 0, s => .next s
  | k + 1, s =>
    match step s with
    | .next t => runSteps k t
    | .fault r => .fault r
    | .refused r => .refused r

/-- The premise every claim about a run takes (R42). -/
def State.clean (s : State) : Prop := s.hazard = false

end Sys2Proof.Machine
end

