-- ==== Sys2Proof/Certificates/Slice0/Obligations.lean ====
section
/-! DEFINITION. The statements for the provers. -/

open Sys2Proof Sys2Proof.Machine

/-! ### Encoding -/

/-- R83: "The legal command words are exactly these eleven; every other 32-bit word is illegal". The
words are the table's, and a word decodes to a command exactly when it is that command's. -/
def Obligations.LegalWordsAreExactlyTheEleven : Prop :=
  (encode .nop = 0x00000000 ∧ encode .init = 0x00000001 ∧ encode .compress = 0x00000002 ∧
   encode .hash = 0x00000003 ∧ encode .hashBin = 0x00000013 ∧ encode .hashHex = 0x00000023 ∧
   encode .merkle = 0x00000004 ∧ encode .merkleBin = 0x00000014 ∧ encode .merkleHex = 0x00000024 ∧
   encode .storeBin = 0x00000015 ∧ encode .storeHex = 0x00000025) ∧
  ∀ (c : Word) (i : Instr), decode c = .ok i ↔ c = encode i

/-- R85, the four causes: OP in 0x6 to 0xF, OUTFMT = 0b11, OUTFMT not admitted for the OP, or any bit of
RSV set; the decoder refuses a word exactly when one of them holds. -/
def Obligations.DecoderRefusesExactlyByTheFourCauses : Prop :=
  ∀ c : Word, (∃ e, decode c = .error e) ↔
    (6 ≤ (c.extractLsb' 0 4).toNat ∨ c.extractLsb' 4 2 = 3 ∨
     ((c.extractLsb' 0 4).toNat ≤ 2 ∧ c.extractLsb' 4 2 ≠ 0) ∨
     (c.extractLsb' 0 4 = 5 ∧ c.extractLsb' 4 2 = 0) ∨
     c.extractLsb' 6 26 ≠ 0)

/-- Words written out from the fields of R80 to R82: RSV, OUTFMT, OP. -/
def Obligations.SampleWordsDecode : Prop :=
  decode (0#26 ++ 0b00#2 ++ 0b0000#4 : BitVec 32) = .ok .nop ∧
  decode (0#26 ++ 0b00#2 ++ 0b0010#4 : BitVec 32) = .ok .compress ∧
  decode (0#26 ++ 0b01#2 ++ 0b0011#4 : BitVec 32) = .ok .hashBin ∧
  decode (0#26 ++ 0b10#2 ++ 0b0100#4 : BitVec 32) = .ok .merkleHex ∧
  decode (0#26 ++ 0b10#2 ++ 0b0101#4 : BitVec 32) = .ok .storeHex ∧
  decode (0#26 ++ 0b00#2 ++ 0b0101#4 : BitVec 32) = .error .outfmtNotAdmitted ∧
  decode (1#26 ++ 0b00#2 ++ 0b0011#4 : BitVec 32) = .error .reservedBits

/-- R87: "The assembler emits the word of rule R83 and refuses any other spelling"; the mnemonics are
those of R83. -/
def Obligations.AssemblerEmitsTheTableWordOnly : Prop :=
  (Instr.all.map Instr.mnemonic =
    ["nop", "init", "compress", "hash", "hash.bin", "hash.hex", "merkle", "merkle.bin",
     "merkle.hex", "store.bin", "store.hex"]) ∧
  ∀ (text : String) (w : Word),
    assemble text = some w ↔ ∃ i : Instr, i.mnemonic = text ∧ encode i = w

/-! ### The step -/

/-- A step runs the decoded command, and more generally, for every state (00_scope.md R11): with a host
event next it is that host step, on the state whose agenda has that entry taken off; with the engine's
turn next, or nothing left, it is the engine's turn. In that turn a running command completes as `exec`
says (30_encoding.md R84), an illegal word with ILLEGAL_CMD (R85), and an idle engine does nothing
(60_exceptions.md R199, R206). The agenda is the model's form of the schedule (log 1). -/
def Obligations.StepRunsTheDecodedCommand : Prop :=
  ∀ s : State,
    (∀ a rest, s.agenda = .host a :: rest → step s = hostStep a { s with agenda := rest }) ∧
    (s.agenda = [] → step s = engineStep s) ∧
    (∀ rest, s.agenda = .engine :: rest → step s = engineStep { s with agenda := rest }) ∧
    (∀ i, s.status.busy = true → decode s.latch.cmd = .ok i →
      engineStep s = exec i s ∧
      (s.agenda = [] → step s = exec i s) ∧
      (∀ rest, s.agenda = .engine :: rest → step s = exec i { s with agenda := rest })) ∧
    (∀ e, s.status.busy = true → decode s.latch.cmd = .error e →
      ∃ t, engineStep s = .next t ∧ s.FailsWith t .illegalCmd 0 ∧ t.hazard = s.hazard) ∧
    (s.status.busy = false → engineStep s = .next s)

/-- Every command, on every state, ends in a completion: BUSY = 0, DONE = 1, REJ as it was
(R193, R194). -/
def Obligations.EveryCommandCompletes : Prop :=
  ∀ (i : Instr) (s : State), ∃ t, exec i s = .next t ∧
    t.status.busy = false ∧ t.status.done = true ∧ t.status.rej = s.status.rej

/-! ### Word functions -/

/-- R101: "bit `k` of the result is bit `(k + n) mod 32` of `x`". -/
def Obligations.RotrMovesEachBitRight : Prop :=
  ∀ (x : Word) (n k : Nat), 1 ≤ n → n ≤ 31 → k < 32 →
    (rotr x n).getLsbD k = x.getLsbD ((k + n) % 32)

/-- R108 and R109, bit by bit: `Ch` is `f` where `e` has a 1 and `g` where it has a 0; `Maj` is 1
exactly where at least two of the three are. -/
def Obligations.ChooseAndMajorityByBit : Prop :=
  ∀ (x y z : Word) (k : Nat), k < 32 →
    ((ch x y z).getLsbD k = if x.getLsbD k then y.getLsbD k else z.getLsbD k) ∧
    ((maj x y z).getLsbD k = true ↔
      2 ≤ (x.getLsbD k).toNat + (y.getLsbD k).toNat + (z.getLsbD k).toNat)

/-! ### Padding, schedule, rounds, digest -/

/-- R120 and R121: the padded message is the message, 0x80, the least number of zero bytes that brings
the total to a multiple of 64, and the bit length in eight big-endian bytes; its length is
`64 * nblocks(L)`. -/
def Obligations.PaddingFillsWholeBlocks : Prop :=
  ∀ m : Bytes,
    (∃ z, z < 64 ∧ (m.length + 1 + z + 8) % 64 = 0 ∧
      (∀ z', (m.length + 1 + z' + 8) % 64 = 0 → z ≤ z') ∧
      pad m = m ++ [0x80] ++ List.replicate z 0x00 ++ beBytes (8 * m.length) 8) ∧
    (pad m).length = 64 * ((m.length + 8) / 64 + 1) ∧
    nblocks m.length = (m.length + 8) / 64 + 1

/-- R123: `W[t]` is `M[t]` for `t` in 0..15 and the recurrence for `t` in 16..63. -/
def Obligations.ScheduleFollowsTheRecurrence : Prop :=
  ∀ block : Bytes, block.length = 64 →
    (schedule block).length = 64 ∧
    (∀ t, t < 16 → (schedule block).getD t 0 =
      be32 (block.getD (4 * t) 0) (block.getD (4 * t + 1) 0) (block.getD (4 * t + 2) 0)
        (block.getD (4 * t + 3) 0)) ∧
    (∀ t, 16 ≤ t → t < 64 → (schedule block).getD t 0 =
      (schedule block).getD (t - 16) 0 + ssig0 ((schedule block).getD (t - 15) 0) +
        (schedule block).getD (t - 7) 0 + ssig1 ((schedule block).getD (t - 2) 0))

/-- R38: "A realisation may keep only a 16-word window": it computes the same compression. -/
def Obligations.SixteenWordWindowComputesCompress : Prop :=
  ∀ (hin : Digest) (block : Bytes), block.length = 64 →
    compressWindow hin block = compressBlock hin block

/-- R132: feeding the message byte by byte, with the padding generated past its end, gives the
same digest as hashing the padded message of R120. -/
def Obligations.ReferenceSequencingComputesSha256 : Prop :=
  ∀ m : Bytes, sha256Stream m = sha256 m

/-- The source's known answer (R127): `SHA256([])`, and its hex form's first bytes (R129). -/
def Obligations.EmptyMessageKnownAnswer : Prop :=
  sha256 [] =
    { h0 := 0xe3b0c442, h1 := 0x98fc1c14, h2 := 0x9afbf4c8, h3 := 0x996fb924
      h4 := 0x27ae41e4, h5 := 0x649b934c, h6 := 0xa495991b, h7 := 0x7852b855 } ∧
  (hexForm (sha256 [])).take 4 = [0x65, 0x33, 0x62, 0x30]

/-- R128 to R131 and R66: `digest_bytes` is 32 bytes, word by word with the most significant byte first;
the hex form is 64 characters `0`..`9`, `a`..`f`, byte by byte with the high nibble first; both tell
digests apart. The output of a format is nothing, the first or the second, of 0, 32 or 64 bytes. -/
def Obligations.DigestAndHexFormsTellDigestsApart : Prop :=
  outSize .plain = 0 ∧ outSize .bin = 32 ∧ outSize .hex = 64 ∧
  (∀ v : BitVec 4,
    (hexChar v).toNat = if v.toNat < 10 then 0x30 + v.toNat else 0x61 + (v.toNat - 10)) ∧
  ∀ d e : Digest,
    outBytes .plain d = [] ∧ outBytes .bin d = digestBytes d ∧ outBytes .hex d = hexForm d ∧
    (List.finRange 8).map (digestWord d) = [d.h0, d.h1, d.h2, d.h3, d.h4, d.h5, d.h6, d.h7] ∧
    (∀ (i : Fin 8) (k : Nat), k < 4 →
      (digestBytes d).getD (4 * i.val + k) 0 = (digestWord d i).extractLsb' (24 - 8 * k) 8) ∧
    (digestBytes d).length = 32 ∧ (digestBytes d = digestBytes e ↔ d = e) ∧
    (hexForm d).length = 64 ∧
    (∀ c ∈ hexForm d, (0x30 ≤ c.toNat ∧ c.toNat ≤ 0x39) ∨ (0x61 ≤ c.toNat ∧ c.toNat ≤ 0x66)) ∧
    (∀ j, j < 32 →
      (hexForm d).getD (2 * j) 0 = hexChar (((digestBytes d).getD j 0).extractLsb' 4 4) ∧
      (hexForm d).getD (2 * j + 1) 0 = hexChar (((digestBytes d).getD j 0).extractLsb' 0 4)) ∧
    (hexForm d = hexForm e ↔ d = e)

/-! ### Merkle assembly -/

/-- R174: the next layer has `ceil(n / 2)` entries: `Node2` of the consecutive pairs, then `Node1` of
the last digest when `n` is odd. -/
def Obligations.NextLayerPairsConsecutiveDigests : Prop :=
  ∀ (d : List Digest) (z : Digest),
    (nextLayer d).length = (d.length + 1) / 2 ∧
    (∀ j, j < d.length / 2 →
      (nextLayer d).getD j z = sha256 (hexForm (d.getD (2 * j) z) ++ hexForm (d.getD (2 * j + 1) z))) ∧
    (d.length % 2 = 1 →
      (nextLayer d).getD (d.length / 2) z = sha256 (hexForm (d.getD (d.length - 1) z)))

/-- R175: from `N` leaves exactly `ceil(log2 N)` rounds leave one digest. -/
def Obligations.ReductionTakesLogarithmicRounds : Prop :=
  ∀ (d : List Digest) (k : Nat), d ≠ [] →
    ((nextLayer^[k] d).length = 1 ↔ Nat.clog 2 d.length ≤ k)

/-- R176, R177(a), R177(b): no root of zero values, a root of any other sequence, the leaf digest for
one value, the hash of the two hex forms for two. -/
def Obligations.MerkleRootOfNoneOneTwoAndMany : Prop :=
  merkleRoot [] = .error .emptyInput ∧
  (∀ v : Bytes, merkleRoot [v] = .ok (sha256 v)) ∧
  (∀ x y : Bytes, merkleRoot [x, y] = .ok (sha256 (hexForm (sha256 x) ++ hexForm (sha256 y)))) ∧
  (∀ vs : List Bytes, vs ≠ [] → ∃ d, merkleRoot vs = .ok d ∧
    nextLayer^[Nat.clog 2 vs.length] (vs.map sha256) = [d])

/-- R179: the in-place sequencing over a layer buffer that holds the leaves, whatever it held before,
leaves the root of R176 in `LAYER[0]`. -/
def Obligations.InPlaceSequencingComputesTheRoot : Prop :=
  ∀ (layer : List Digest) (vs : List Bytes), vs ≠ [] → vs.length ≤ layer.length →
    merkleRoot vs = .ok (rootInPlace layer vs)

/-! ### The commands -/

/-- R140: `nop` is "nothing but a completion". That the datapath and the Merkle unit, which the spec
calls unspecified between commands, are kept is the model's choice (log 15). -/
def Obligations.NopOnlyCompletes : Prop :=
  ∀ s : State, s.Accepted → ∃ t, exec .nop s = .next t ∧
    t.status = s.status.success ∧ t.regs = s.regs ∧ t.h = s.h ∧ t.mem = s.mem ∧
    t.work = s.work ∧ t.tree = s.tree ∧ t.hazard = s.hazard ∧ s.HostSideKept t

/-- R141: `init` sets every `H[i]` to `IV[i]` and completes. That the datapath and the Merkle unit are
kept is the model's choice (log 15). -/
def Obligations.InitLoadsTheInitialHash : Prop :=
  ∀ s : State, s.Accepted → ∃ t, exec .init s = .next t ∧
    t.h = { h0 := 0x6a09e667, h1 := 0xbb67ae85, h2 := 0x3c6ef372, h3 := 0xa54ff53a
            h4 := 0x510e527f, h5 := 0x9b05688c, h6 := 0x1f83d9ab, h7 := 0x5be0cd19 } ∧
    t.status = s.status.success ∧ t.regs = s.regs ∧ t.mem = s.mem ∧
    t.work = s.work ∧ t.tree = s.tree ∧ t.hazard = s.hazard ∧ s.HostSideKept t

/-- R142: `compress` on a block in range (no hazard write having hit it, R232) puts
`Compress(H, MemRead(L_SRC, 64))` in `H`; out of range it ends with SRC_RANGE. -/
def Obligations.CompressComputesOrReportsSrcRange : Prop :=
  ∀ s : State, s.Accepted →
    (s.src + 64 ≤ s.params.memBytes → s.tainted = false →
      ∃ t, exec .compress s = .next t ∧
        s.SucceedsWith t .plain (compressBlock s.h (s.engineRead s.src 64))) ∧
    (s.params.memBytes < s.src + 64 →
      ∃ t, exec .compress s = .next t ∧ s.FailsWith t .srcRange 0)

/-- R143, success: `hash`, `hash.bin`, `hash.hex` on ranges in the memory (no hazard write having hit
them, R232) put `SHA256(MemRead(L_SRC, L_LEN))` in `H` and write the output. -/
def Obligations.HashCommandsComputeSha256 : Prop :=
  ∀ (s : State) (i : Instr) (fmt : OutFmt),
    (i, fmt) ∈ [(Instr.hash, OutFmt.plain), (Instr.hashBin, OutFmt.bin), (Instr.hashHex, OutFmt.hex)] →
    s.Accepted → s.tainted = false →
    (s.len = 0 ∨ s.src + s.len ≤ s.params.memBytes) →
    (fmt = .plain ∨ s.dst + outSize fmt ≤ s.params.memBytes) →
    ∃ t, exec i s = .next t ∧ s.SucceedsWith t fmt (sha256 (s.engineRead s.src s.len))

/-- R143, errors in the order of R191: the message range first, then the output range. -/
def Obligations.HashCommandsReportRangeErrorsInOrder : Prop :=
  ∀ (s : State) (i : Instr) (fmt : OutFmt),
    (i, fmt) ∈ [(Instr.hash, OutFmt.plain), (Instr.hashBin, OutFmt.bin), (Instr.hashHex, OutFmt.hex)] →
    s.Accepted →
    (s.len ≠ 0 → s.params.memBytes < s.src + s.len →
      ∃ t, exec i s = .next t ∧ s.FailsWith t .srcRange 0) ∧
    ((s.len = 0 ∨ s.src + s.len ≤ s.params.memBytes) →
      fmt ≠ .plain → s.params.memBytes < s.dst + outSize fmt →
      ∃ t, exec i s = .next t ∧ s.FailsWith t .dstRange 0)

/-- R144: `store.bin` and `store.hex` write `H` at `L_DST` and keep it (no hazard write having hit the
output, R232), or end with DST_RANGE. -/
def Obligations.StoreCommandsWriteTheHashState : Prop :=
  ∀ (s : State) (i : Instr) (fmt : OutFmt),
    (i, fmt) ∈ [(Instr.storeBin, OutFmt.bin), (Instr.storeHex, OutFmt.hex)] → s.Accepted →
    (s.dst + outSize fmt ≤ s.params.memBytes → s.tainted = false →
      ∃ t, exec i s = .next t ∧ s.SucceedsWith t fmt s.h ∧ t.hazard = s.hazard) ∧
    (s.params.memBytes < s.dst + outSize fmt →
      ∃ t, exec i s = .next t ∧ s.FailsWith t .dstRange 0 ∧ t.hazard = s.hazard)

/-- R178, success: `merkle`, `merkle.bin`, `merkle.hex` over 1 to MAX_LEAVES values, the table, the
output and every leaf in range (no hazard write having hit them, R232), put the root of the values in
`H` and write the output. -/
def Obligations.MerkleCommandsComputeTheRoot : Prop :=
  ∀ (s : State) (i : Instr) (fmt : OutFmt),
    (i, fmt) ∈
      [(Instr.merkle, OutFmt.plain), (Instr.merkleBin, OutFmt.bin), (Instr.merkleHex, OutFmt.hex)] →
    s.Accepted → s.tainted = false →
    s.len ≠ 0 → s.len ≤ s.params.maxLeaves → s.src + 8 * s.len ≤ s.params.memBytes →
    (fmt = .plain ∨ s.dst + outSize fmt ≤ s.params.memBytes) →
    (∀ k, k < s.len → s.leafLen k = 0 ∨ s.leafAddr k + s.leafLen k ≤ s.params.memBytes) →
    ∃ t root, exec i s = .next t ∧ merkleRoot s.leaves = .ok root ∧ s.SucceedsWith t fmt root

/-- R178, errors in the order of R191: EMPTY_INPUT, LEAF_COUNT, SRC_RANGE, DST_RANGE, then LEAF_RANGE
with ERRINFO the first index out of range. -/
def Obligations.MerkleCommandsReportErrorsInOrder : Prop :=
  ∀ (s : State) (i : Instr) (fmt : OutFmt),
    (i, fmt) ∈
      [(Instr.merkle, OutFmt.plain), (Instr.merkleBin, OutFmt.bin), (Instr.merkleHex, OutFmt.hex)] →
    s.Accepted →
    (s.len = 0 → ∃ t, exec i s = .next t ∧ s.FailsWith t .emptyInput 0) ∧
    (s.len ≠ 0 → s.params.maxLeaves < s.len →
      ∃ t, exec i s = .next t ∧ s.FailsWith t .leafCount 0) ∧
    (s.len ≠ 0 → s.len ≤ s.params.maxLeaves → s.params.memBytes < s.src + 8 * s.len →
      ∃ t, exec i s = .next t ∧ s.FailsWith t .srcRange 0) ∧
    (s.len ≠ 0 → s.len ≤ s.params.maxLeaves → s.src + 8 * s.len ≤ s.params.memBytes →
      fmt ≠ .plain → s.params.memBytes < s.dst + outSize fmt →
      ∃ t, exec i s = .next t ∧ s.FailsWith t .dstRange 0) ∧
    (∀ k, s.len ≤ s.params.maxLeaves → s.src + 8 * s.len ≤ s.params.memBytes →
      (fmt = .plain ∨ s.dst + outSize fmt ≤ s.params.memBytes) →
      k < s.len → s.leafLen k ≠ 0 → s.params.memBytes < s.leafAddr k + s.leafLen k →
      (∀ j, j < k → s.leafLen j = 0 ∨ s.leafAddr j + s.leafLen j ≤ s.params.memBytes) →
      ∃ t, exec i s = .next t ∧ s.FailsWith t .leafRange (BitVec.ofNat 32 k))

/-- R85: a word that is none of the eleven is accepted by R84 and then completes with ILLEGAL_CMD; of
what the host can see only CMD, at acceptance, STATUS and ERRINFO change. That the datapath and the
Merkle unit are kept is the model's choice (log 15), which also frees the latches. -/
def Obligations.IllegalWordCompletesInError : Prop :=
  ∀ (s : State) (c : Word), s.status.busy = false → (∀ i : Instr, c ≠ encode i) →
    ∃ t, engineStep (s.writeReg .cmd c) = .next t ∧
      t.status = s.status.failure .illegalCmd ∧ t.regs = { s.regs with cmd := c, errInfo := 0 } ∧
      t.h = s.h ∧ t.mem = s.mem ∧ t.work = s.work ∧ t.tree = s.tree ∧ t.hazard = s.hazard ∧
      t.port = s.port ∧ t.params = s.params

/-- R192: a command that raises an error changes no `H` word, no LAYER entry and no buffer-memory byte;
of what the host can see only STATUS and ERRINFO change. HAZARD is never cleared and can only be set by
the descriptors read before a LEAF_RANGE error (log 13). That the datapath and the Merkle unit are kept
whole, while the latches become free, is the model's choice (log 15). -/
def Obligations.ErrorsAreAtomic : Prop :=
  ∀ (i : Instr) (s t : State), s.status.err = false → exec i s = .next t → t.status.err = true →
    t.h = s.h ∧ t.tree = s.tree ∧ t.work = s.work ∧ t.mem = s.mem ∧ s.HostSideKept t ∧
    (s.hazard = true → t.hazard = true) ∧
    (t.status.errCode ≠ .leafRange → t.hazard = s.hazard)

/-- The frame of the commands that store nothing in the buffer memory: every byte reads as before;
`H` is written by all but `nop`; ERR, ERRCODE and ERRINFO change only in an error completion; the
datapath's state only in `compress`, `hash`, `merkle`, the Merkle unit's only in `merkle` (R140 to R143,
R178). R37 to R41 call these two unspecified between commands: that they are kept otherwise is the
model's choice (log 15). -/
def Obligations.FrameOfCommandsThatStoreNothing : Prop :=
  ∀ (i : Instr) (s t : State),
    i ∈ [Instr.nop, Instr.init, Instr.compress, Instr.hash, Instr.merkle] → exec i s = .next t →
    (∀ a, Memory.get? t.mem a = Memory.get? s.mem a) ∧ s.HostSideKept t ∧
    ((t.status.err = s.status.err ∧ t.status.errCode = s.status.errCode ∧
      t.regs.errInfo = s.regs.errInfo) ∨ t.status.err = true) ∧
    (i = .nop → t.h = s.h) ∧
    (i ∈ [Instr.nop, Instr.init] → t.work = s.work ∧ t.hazard = s.hazard) ∧
    (i ≠ .merkle → t.tree = s.tree) ∧ (s.hazard = true → t.hazard = true)

/-- The frame of the commands that store: the stored bytes are the output format's size at `L_DST`, every
other byte reads as before; `store.*` keep `H` (no hazard write having hit them, R232), the datapath's
and the Merkle unit's state, `hash.*` the Merkle unit's (R143, R144, R178). R37 to R41 call these two
unspecified between commands: that they are kept is the model's choice (log 15). -/
def Obligations.FrameOfStoringCommands : Prop :=
  ∀ (i : Instr) (s t : State),
    i ∈ [Instr.hashBin, Instr.hashHex, Instr.merkleBin, Instr.merkleHex, Instr.storeBin,
         Instr.storeHex] → exec i s = .next t →
    (∀ a, (a < s.dst ∨ s.dst + outSize (outFmtOf i) ≤ a) →
      Memory.get? t.mem a = Memory.get? s.mem a) ∧ s.HostSideKept t ∧
    ((t.status.err = s.status.err ∧ t.status.errCode = s.status.errCode ∧
      t.regs.errInfo = s.regs.errInfo) ∨ t.status.err = true) ∧
    (i ∈ [Instr.storeBin, Instr.storeHex] →
      (s.tainted = false → t.h = s.h) ∧ t.work = s.work ∧ t.tree = s.tree ∧
      t.hazard = s.hazard) ∧
    (i ∈ [Instr.hashBin, Instr.hashHex] → t.tree = s.tree) ∧ (s.hazard = true → t.hazard = true)

/-- R62: the engine "never reads or writes a byte outside `0 .. MEM_BYTES-1`": a byte a completion
changes lies in the memory and in the command's output range, and a byte it reads, after its checks or
in the last check of `merkle`, lies in the memory. -/
def Obligations.EngineWritesOnlyItsOutputInsideTheMemory : Prop :=
  (∀ (i : Instr) (s t : State) (a : Nat), exec i s = .next t →
    Memory.get? t.mem a ≠ Memory.get? s.mem a →
    s.dst ≤ a ∧ a < s.dst + outSize (outFmtOf i) ∧ a < s.params.memBytes) ∧
  (∀ (i : Instr) (s : State) (a : Nat), s.check i = none → covers (s.readSet i) a = true →
    a < s.params.memBytes) ∧
  (∀ (fmt : OutFmt) (s : State) (a : Nat), covers (s.merkleReads fmt) a = true →
    a < s.params.memBytes)

/-- R72(a), R71: the engine's read gives the bytes that stood there at acceptance; that acceptance copies
the memory is the model's way (log 6). R9, R67, R170: a word is read with the most significant byte
first, descriptor `k` stands at `L_SRC + 8k`, its address before its length, and the values are the
bytes so described, in table order. -/
def Obligations.EngineReadsTheMemoryOfAcceptance : Prop :=
  (∀ (s : State) (c : Word), s.status.busy = false →
    (s.writeReg .cmd c).latch.mem = s.mem ∧
    ∀ (a : Nat) (bs : Bytes), (∀ k, k < bs.length → Memory.get? s.mem (a + k) = bs[k]?) →
      ∀ m : List Host.Cell, State.engineRead { s.writeReg .cmd c with mem := m } a bs.length = bs) ∧
  (∀ b₀ b₁ b₂ b₃ : Byte, (be32 b₀ b₁ b₂ b₃).toNat =
    2 ^ 24 * b₀.toNat + 2 ^ 16 * b₁.toNat + 2 ^ 8 * b₂.toNat + b₃.toNat) ∧
  ∀ s : State,
    (∀ (k : Nat) (b₀ b₁ b₂ b₃ : Byte),
      (s.engineRead (s.src + 8 * k) 4 = [b₀, b₁, b₂, b₃] →
        s.leafAddr k = (be32 b₀ b₁ b₂ b₃).toNat) ∧
      (s.engineRead (s.src + 8 * k + 4) 4 = [b₀, b₁, b₂, b₃] →
        s.leafLen k = (be32 b₀ b₁ b₂ b₃).toNat)) ∧
    s.leaves.length = s.len ∧
    ∀ k, k < s.len → s.leaves[k]? = some (s.engineRead (s.leafAddr k) (s.leafLen k))

/-- R133: "No value carries from one `hash` command to the next: `hash` reads `H` not at all"; nor does
`merkle`. Two states with the same parameters and latches give the same `H` and the same output,
whatever `H`, the registers and the current buffer memory hold. The latches hold two fields of the
model's own beside the four of R39: the copy of the memory (log 6) and the draw that fixes what the
never-written bytes read as (log 8), so on such bytes the statement rests on equal draws. -/
def Obligations.HashAndMerkleDependOnLatchesOnly : Prop :=
  ∀ (i : Instr) (s s' t t' : State),
    i ∈ [Instr.hash, Instr.hashBin, Instr.hashHex, Instr.merkle, Instr.merkleBin, Instr.merkleHex] →
    s.params = s'.params → s.latch = s'.latch → s.tainted = false → s'.tainted = false →
    s.check i = none → exec i s = .next t → exec i s' = .next t' →
    t.h = t'.h ∧ ∀ k, k < outSize (outFmtOf i) →
      Memory.get? t.mem (s.dst + k) = Memory.get? t'.mem (s.dst + k)

/-- `init` and then `compress` over the blocks of `Pad(m)` in turn give `SHA256(m)`, which R142 derives
from R125, R127 and R141: `init` leaves the chaining value after no block, the block at `L_SRC` takes the
one after `k` blocks to the one after `k + 1`, and the one after all of them is the digest. -/
def Obligations.CompressOverPaddedBlocksBuildsSha256 : Prop :=
  ∀ m : Bytes, chain m 0 = initialHash ∧ chain m (nblocks m.length) = sha256 m ∧
    (∀ s : State, ∃ t, exec .init s = .next t ∧ t.h = chain m 0 ∧ t.hazard = s.hazard) ∧
    ∀ (s : State) (k : Nat), s.tainted = false → s.src + 64 ≤ s.params.memBytes →
      k < nblocks m.length → s.h = chain m k →
      (∀ j, j < 64 → Memory.get? s.latch.mem (s.src + j) = (pad m)[64 * k + j]?) →
      ∃ t, exec .compress s = .next t ∧ t.h = chain m (k + 1) ∧ t.hazard = s.hazard

/-! ### Hazards -/

/-- R76: a command that has passed its checks sets HAZARD exactly when a byte of its read set had never
been written at acceptance. A `merkle` command, whatever its outcome, sets it exactly when such a byte is
among those it reads: in a LEAF_RANGE error the descriptors up to the first out of range, in any other
error none (log 13). An error other than LEAF_RANGE keeps HAZARD. -/
def Obligations.ReadingUnwrittenBytesSetsHazard : Prop :=
  (∀ (i : Instr) (s t : State), s.check i = none → exec i s = .next t →
    (t.hazard = true ↔ s.hazard = true ∨
      ∃ a, covers (s.readSet i) a = true ∧ Memory.get? s.latch.mem a = none)) ∧
  (∀ (i : Instr) (fmt : OutFmt) (s t : State),
    (i, fmt) ∈
      [(Instr.merkle, OutFmt.plain), (Instr.merkleBin, OutFmt.bin), (Instr.merkleHex, OutFmt.hex)] →
    exec i s = .next t →
    (t.hazard = true ↔ s.hazard = true ∨
      ∃ a, covers (s.merkleReads fmt) a = true ∧ Memory.get? s.latch.mem a = none) ∧
    (∀ k, s.tableCheck fmt = none → s.firstBadLeaf = some k →
      s.merkleReads fmt = [(s.src, 8 * (k + 1))])) ∧
  (∀ (i : Instr) (s t : State) (e : Failure), s.check i = some e → e.1 ≠ .leafRange →
    exec i s = .next t → t.hazard = s.hazard)

/-- R42: HAZARD is set by a host write into a running command's read or write set (R232) and by an
engine read of a byte never written at acceptance (R76) only, and is never cleared. -/
def Obligations.HazardIsSetByTheTwoRulesAndNeverCleared : Prop :=
  ∀ s t : State, step s = .next t →
    (s.hazard = true → t.hazard = true) ∧
    (s.hazard = false → t.hazard = true →
      s.status.busy = true ∧
      ((∃ a v rest, s.agenda = .host (.memWrite a v) :: rest ∧
          (s.inReadSet a = true ∨ s.inWriteSet a = true)) ∨
       ((s.agenda = [] ∨ ∃ rest, s.agenda = .engine :: rest) ∧
          ∃ i a, decode s.latch.cmd = .ok i ∧ covers (s.readSet i) a = true ∧
            Memory.get? s.latch.mem a = none)))

/-- R232: a host write to a byte of the running command's read or write set sets HAZARD; the byte is
written, and nothing else the host can see changes. -/
def Obligations.WriteIntoRunningCommandSetsHazard : Prop :=
  ∀ (s : State) (a : Nat) (v : Byte), a < s.params.memBytes →
    (s.inReadSet a = true ∨ s.inWriteSet a = true) →
    ∃ t, hostStep (.memWrite a v) s = .next t ∧ t.hazard = true ∧
      Memory.get? t.mem a = some v ∧ s.memoryKeptOutside t a 1 ∧
      t.status = s.status ∧ t.regs = s.regs ∧ t.h = s.h ∧ t.latch = s.latch ∧ t.port = s.port

/-- R234: while a command runs, a read of a byte of its write set, which is its output range whether or not
its checks will pass (log 26), and a read of `H` answer a free value; neither sets HAZARD or changes
anything else but the count of draws. -/
def Obligations.UnfinishedResultsReadAsDraws : Prop :=
  (∀ (s : State) (i : Instr) (a : Nat), s.status.busy = true → decode s.latch.cmd = .ok i →
    a < s.params.memBytes → s.dst ≤ a → a < s.dst + outSize (outFmtOf i) →
    ∃ n k, hostStep (.memRead a) s =
      .next { s with port := { s.port with mdata := Config.freeByte n k }, draws := s.draws + 1 }) ∧
  (∀ (s : State) (i : Fin 8), s.status.busy = true →
    ∃ n k, hostStep (.regRead (s.params.regBase + (0x40 + 4 * i.val)) 32) s =
      .next { s with port := { s.port with rdata := Config.freeWord n k }, draws := s.draws + 1 })

/-- R235, R76: a host read outside the running command's output range answers the stored byte, or a free
value where nothing has been written since power-on, without HAZARD; a host write outside the read and
write sets, which R232 makes empty for a command that has failed a check, changes that byte and nothing
else. -/
def Obligations.AccessesOutsideTheSetsAreExact : Prop :=
  ∀ (s : State) (a : Nat), a < s.params.memBytes →
    ((∀ i, s.status.busy = true → decode s.latch.cmd = .ok i →
        a < s.dst ∨ s.dst + outSize (outFmtOf i) ≤ a) →
      (∀ b, Memory.get? s.mem a = some b →
        hostStep (.memRead a) s = .next { s with port := { s.port with mdata := b } }) ∧
      (Memory.get? s.mem a = none → ∃ n k, hostStep (.memRead a) s =
        .next { s with
          port := { s.port with mdata := Config.freeByte n k }, draws := s.draws + 1 })) ∧
    (s.inReadSet a = false → s.inWriteSet a = false → ∀ v, ∃ m,
      hostStep (.memWrite a v) s = .next { s with mem := m } ∧ Memory.get? m a = some v ∧
      ∀ b, b ≠ a → Memory.get? m b = Memory.get? s.mem b)

/-- R235: a host write outside the running command's read and write sets "does not affect the command":
before or after the completion it leaves the same state. -/
def Obligations.OutsideWriteCommutesWithCompletion : Prop :=
  ∀ (s : State) (i : Instr) (a : Nat) (v : Byte), Memory.wf s.mem = true →
    s.status.busy = true → decode s.latch.cmd = .ok i →
    a < s.params.memBytes → s.inReadSet a = false → s.inWriteSet a = false →
    ∃ s₁ t₁ t₂, hostStep (.memWrite a v) s = .next s₁ ∧ exec i s₁ = .next t₂ ∧
      exec i s = .next t₁ ∧ hostStep (.memWrite a v) t₁ = .next t₂

/-- R233: a write of SRC_ADDR, LEN, DST_ADDR or CTRL while BUSY = 1 is safe: before or after the
completion it leaves the same state. -/
def Obligations.OperandWritesCommuteWithCompletion : Prop :=
  ∀ (s : State) (i : Instr) (r : RegName) (v : Word),
    r ∈ [RegName.srcAddr, RegName.len, RegName.dstAddr, RegName.ctrl] →
    ∃ t, exec i (s.writeReg r v) = .next (t.writeReg r v) ∧ exec i s = .next t

/-! ### The host's ports -/

/-- R84: a word written to CMD while BUSY = 0 is accepted in that same step, legal or not; while BUSY = 1
the write is refused instead (R196). -/
def Obligations.CommandWritesAreAcceptedWhenIdle : Prop :=
  ∀ (s : State) (c : Word) (rest : List Event),
    s.agenda = .host (.regWrite (s.params.regBase + 0x00C) 32 c) :: rest →
    (s.status.busy = false → ∃ t, step s = .next t ∧
      t.latch.cmd = c ∧ t.latch.src = s.regs.srcAddr ∧ t.latch.len = s.regs.len ∧
      t.latch.dst = s.regs.dstAddr ∧
      t.regs = { s.regs with cmd := c, errInfo := 0 } ∧
      t.status = { busy := true, done := false, err := false, rej := s.status.rej,
                   errCode := .noError } ∧
      t.h = s.h ∧ t.mem = s.mem ∧ t.hazard = s.hazard ∧ t.params = s.params ∧ t.port = s.port ∧
      t.agenda = rest) ∧
    (s.status.busy = true →
      step s = .next { s with status := { s.status with rej := true }, agenda := rest })

/-- R196: while BUSY = 1 a write to CMD or to `H0..H7` is refused: REJ is set and nothing else changes. -/
def Obligations.BusyWritesAreRefused : Prop :=
  ∀ (s : State) (v : Word) (off : Nat), s.status.busy = true →
    (off = 0x00C ∨ ∃ i : Fin 8, off = 0x040 + 4 * i.val) →
    hostStep (.regWrite (s.params.regBase + off) 32 v) s =
      .next { s with status := { s.status with rej := true } }

/-- R32, idle: a host write to `Hi` sets `H[i]` and no other word, and a read returns it. -/
def Obligations.IdleHashStateWritesAndReads : Prop :=
  ∀ (s : State) (i : Fin 8) (v : Word), s.status.busy = false →
    ∃ h, hostStep (.regWrite (s.params.regBase + (0x040 + 4 * i.val)) 32 v) s =
        .next { s with h := h } ∧
      digestWord h i = v ∧ (∀ j : Fin 8, j ≠ i → digestWord h j = digestWord s.h j) ∧
      hostStep (.regRead (s.params.regBase + (0x040 + 4 * i.val)) 32) s =
        .next { s with port := { s.port with rdata := digestWord s.h i } }

/-- R21: what a read returns at each offset that holds a register, `H` aside, at any time (R235). -/
def Obligations.RegisterMapReads : Prop :=
  ∀ (s : State) (off : Nat) (v : Word),
    (off, v) ∈
      [(0x000, (0x534D4501 : Word)), (0x004, if s.regs.ie then 1 else 0), (0x008, s.status.word),
       (0x00C, s.regs.cmd), (0x010, s.regs.srcAddr), (0x014, s.regs.len), (0x018, s.regs.dstAddr),
       (0x01C, s.regs.errInfo), (0x020, BitVec.ofNat 32 s.params.memBytes),
       (0x024, BitVec.ofNat 32 s.params.maxLeaves)] →
    hostStep (.regRead (s.params.regBase + off) 32) s =
      .next { s with port := { s.port with rdata := v } }

/-- R24, R190: the places of BUSY, DONE, ERR, REJ and ERRCODE in STATUS, the numbers of the error codes;
every other bit reads 0. -/
def Obligations.StatusWordLayout : Prop :=
  ∀ st : Status,
    st.word.getLsbD 0 = st.busy ∧ st.word.getLsbD 1 = st.done ∧ st.word.getLsbD 2 = st.err ∧
    st.word.getLsbD 3 = st.rej ∧ (st.word.extractLsb' 8 4).toNat = codeNumber st.errCode ∧
    st.word.extractLsb' 4 4 = 0 ∧ st.word.extractLsb' 12 20 = 0 ∧
    codeNumber .noError = 0 ∧ codeNumber .emptyInput = 1 ∧ codeNumber .illegalCmd = 2 ∧
    codeNumber .srcRange = 3 ∧ codeNumber .dstRange = 4 ∧ codeNumber .leafRange = 5 ∧
    codeNumber .leafCount = 6

/-- R24, R29, R195: writing STATUS clears DONE, ERR and REJ where bits 1, 2 and 3 are 1 and leaves them
where they are 0; clearing ERR clears ERRCODE and ERRINFO; nothing else of the state changes, so with
the three bits 0 nothing does. -/
def Obligations.StatusIsWrittenOneToClear : Prop :=
  ∀ (s : State) (v : Word),
    hostStep (.regWrite (s.params.regBase + 0x008) 32 v) s =
      .next { s with
        status :=
          { busy := s.status.busy
            done := if v.getLsbD 1 then false else s.status.done
            err := if v.getLsbD 2 then false else s.status.err
            rej := if v.getLsbD 3 then false else s.status.rej
            errCode := if v.getLsbD 2 then .noError else s.status.errCode }
        regs := { s.regs with errInfo := if v.getLsbD 2 then 0 else s.regs.errInfo } } ∧
    (v.getLsbD 1 = false → v.getLsbD 2 = false → v.getLsbD 3 = false →
      hostStep (.regWrite (s.params.regBase + 0x008) 32 v) s = .next s)

/-- R22, R29, R30, R31: a write to ID, ERRINFO, CAP_MEM or CAP_LEAVES is ignored; R33: a reserved offset
ignores writes and reads 0. -/
def Obligations.ReadOnlyAndReservedOffsets : Prop :=
  ∀ (s : State) (v : Word) (off : Nat),
    (off ∈ [0x000, 0x01C, 0x020, 0x024] →
      hostStep (.regWrite (s.params.regBase + off) 32 v) s = .next s) ∧
    (off % 4 = 0 → (0x028 ≤ off ∧ off ≤ 0x03C ∨ 0x060 ≤ off ∧ off ≤ 0x0FC) →
      hostStep (.regWrite (s.params.regBase + off) 32 v) s = .next s ∧
      hostStep (.regRead (s.params.regBase + off) 32) s =
        .next { s with port := { s.port with rdata := 0 } })

/-- R23, R26 to R28: CTRL takes bit 0 only, SRC_ADDR, LEN and DST_ADDR every bit, at any time, and
nothing else changes. -/
def Obligations.ReadWriteRegistersTakeWrites : Prop :=
  ∀ (s : State) (v : Word),
    hostStep (.regWrite (s.params.regBase + 0x004) 32 v) s =
      .next { s with regs := { s.regs with ie := v.getLsbD 0 } } ∧
    hostStep (.regWrite (s.params.regBase + 0x010) 32 v) s =
      .next { s with regs := { s.regs with srcAddr := v } } ∧
    hostStep (.regWrite (s.params.regBase + 0x014) 32 v) s =
      .next { s with regs := { s.regs with len := v } } ∧
    hostStep (.regWrite (s.params.regBase + 0x018) 32 v) s =
      .next { s with regs := { s.regs with dstAddr := v } }

/-- R20, R61: a host step is refused exactly when it is no part of the interface: a register access that
is not an aligned 32-bit one inside the window, or a byte at or above MEM_BYTES; no host step
faults. That an access outside the window is refused is the model's reading of R20 (log 11). -/
def Obligations.HostStepsAreRefusedExactlyOutsideTheInterface : Prop :=
  ∀ (a : HostAction) (s : State),
    (a.wf s.params = true → ∃ t, hostStep a s = .next t) ∧
    (a.wf s.params = false → ∃ r, hostStep a s = .refused r)

/-- R34, R197: IRQ is CTRL.IE and STATUS.DONE: raised by any completion when enabled, lowered by the
acceptance of a command, by clearing DONE and by clearing IE. -/
def Obligations.InterruptFollowsDone : Prop :=
  ∀ s : State,
    (s.irq = true ↔ s.regs.ie = true ∧ s.status.done = true) ∧
    (∀ t, s.status.busy = true → engineStep s = .next t → t.irq = s.regs.ie) ∧
    (∀ c, s.status.busy = false → (s.writeReg .cmd c).irq = false) ∧
    (∀ v : Word, v.getLsbD 1 = true → (s.writeReg .status v).irq = false) ∧
    (∀ v : Word, v.getLsbD 0 = false → (s.writeReg .ctrl v).irq = false)

/-- R198, R231: a CMD write and a completion in either order: after the completion the write is
accepted, before it the write is refused and the first command still completes with REJ = 1. -/
def Obligations.BothOrdersOfCompletionAndCommandWrite : Prop :=
  ∀ (s t : State) (c : Word), s.status.busy = true → engineStep s = .next t →
    (t.writeReg .cmd c).status.busy = true ∧ (t.writeReg .cmd c).latch.cmd = c ∧
    (t.writeReg .cmd c).regs.cmd = c ∧
    ∃ t', engineStep (s.writeReg .cmd c) = .next t' ∧ t'.status = { t.status with rej := true } ∧
      t'.regs = t.regs ∧ t'.h = t.h ∧ t'.mem = t.mem

/-! ### Reset -/

/-- The registers after power-on reset, for every instance (R21, R22 to R36, R221). That HAZARD is false is
the model's reading (log 21), and which instance `State.reset` is its choice (log 2). -/
def Obligations.PowerOnResetValues : Prop :=
  State.reset = State.powerOn { memBytes := 4096, maxLeaves := 16, regBase := 0 } ∧
  ∀ p : Params,
    (State.powerOn p).regs =
      { ie := false, cmd := 0, srcAddr := 0, len := 0, dstAddr := 0, errInfo := 0 } ∧
    (State.powerOn p).status.word = 0 ∧
    (State.powerOn p).h =
      { h0 := 0x6a09e667, h1 := 0xbb67ae85, h2 := 0x3c6ef372, h3 := 0xa54ff53a
        h4 := 0x510e527f, h5 := 0x9b05688c, h6 := 0x1f83d9ab, h7 := 0x5be0cd19 } ∧
    (State.powerOn p).irq = false ∧ (State.powerOn p).params = p ∧ (State.powerOn p).mem = [] ∧
    (State.powerOn p).hazard = false

/-- R221: the assertion of reset puts every register at its reset value, IRQ at 0, keeps HAZARD, the
parameters and, when no command is running, every byte of the buffer memory. -/
def Obligations.ResetRestoresTheRegisters : Prop :=
  ∀ s : State, ∃ t, hostStep .reset s = .next t ∧
    t.regs = { ie := false, cmd := 0, srcAddr := 0, len := 0, dstAddr := 0, errInfo := 0 } ∧
    t.status.word = 0 ∧
    t.h = { h0 := 0x6a09e667, h1 := 0xbb67ae85, h2 := 0x3c6ef372, h3 := 0xa54ff53a
            h4 := 0x510e527f, h5 := 0x9b05688c, h6 := 0x1f83d9ab, h7 := 0x5be0cd19 } ∧
    t.irq = false ∧ t.hazard = s.hazard ∧ t.params = s.params ∧
    (s.status.busy = false → t.mem = s.mem)

/-- R222: reset while BUSY = 1 abandons the command: no completion, DONE not set, `H` is `IV`; when the
command has an output and has passed its checks, every byte of its output range counts as written and
holds a free value; every other byte keeps its value. -/
def Obligations.ResetWhileBusyDrawsTheOutputBytes : Prop :=
  ∀ s : State, s.status.busy = true →
    ∃ t, hostStep .reset s = .next t ∧ t.status.done = false ∧ t.status.busy = false ∧
      t.h = { h0 := 0x6a09e667, h1 := 0xbb67ae85, h2 := 0x3c6ef372, h3 := 0xa54ff53a
              h4 := 0x510e527f, h5 := 0x9b05688c, h6 := 0x1f83d9ab, h7 := 0x5be0cd19 } ∧
      (∀ i, decode s.latch.cmd = .ok i → s.check i = none →
        (∀ k, k < outSize (outFmtOf i) →
          ∃ n j, Memory.get? t.mem (s.dst + k) = some (Config.freeByte n j)) ∧
        s.memoryKeptOutside t s.dst (outSize (outFmtOf i))) ∧
      ((∀ i, decode s.latch.cmd = .ok i → s.check i ≠ none) → t.mem = s.mem)

/-! ### The whole machine -/

/-- R24, R60, R41, R42: the invariant holds after power-on reset, for every legal instance and for the
instance of `State.reset`. -/
def Obligations.PowerOnMeetsTheInvariant : Prop :=
  State.reset.Inv ∧ ∀ p : Params, p.wf = true → (State.powerOn p).Inv

/-- Every step keeps the invariant: the flag invariants of R24 ("`ERR = 0` if and only if
`ERRCODE = 0`; `BUSY = 1` implies `DONE = 0` and `ERR = 0`"), the memory's form and bounds, the legal
parameters, the layer buffer's size, and that only a running command is hit by a hazard. -/
def Obligations.EveryStepKeepsTheInvariant : Prop :=
  ∀ s t : State, s.Inv → step s = .next t → t.Inv

/-- R200: "Every accepted command completes after a finite delay": whatever transactions of the
interface the host makes, once they are done and the engine has had its turn, BUSY = 0. -/
def Obligations.EveryRunEndsIdle : Prop :=
  ∀ s : State, (∀ a, Event.host a ∈ s.agenda → a.wf s.params = true) →
    ∃ t, runSteps (s.agenda.length + 1) s = .next t ∧ t.status.busy = false ∧ t.agenda = []

/-- R32: in a run without hazard writes `H` is changed only by reset, by an idle host write to `H0..H7`,
and by a successful completion of `init`, `compress`, `hash*` or `merkle*`. -/
def Obligations.HashStateChangesOnlyByTheRules : Prop :=
  ∀ s t : State, s.tainted = false → step s = .next t → t.h ≠ s.h →
    (∃ rest, s.agenda = .host .reset :: rest) ∨
    (s.status.busy = false ∧ ∃ (i : Fin 8) (v : Word) (rest : List Event),
      s.agenda = .host (.regWrite (s.params.regBase + (0x040 + 4 * i.val)) 32 v) :: rest) ∨
    (s.status.busy = true ∧ (s.agenda = [] ∨ ∃ rest, s.agenda = .engine :: rest) ∧
      ∃ i, decode s.latch.cmd = .ok i ∧ s.check i = none ∧
        i ∉ [Instr.nop, Instr.storeBin, Instr.storeHex])

/-- R5, R22, R30, R31: no step changes the parameters, and a step takes at most one event. -/
def Obligations.StepsKeepTheParameters : Prop :=
  ∀ s t : State, step s = .next t → t.params = s.params ∧ t.agenda = s.agenda.tail
end

