-- ==== Sys2Proof/Laws/Decode.lean ====
section
/-! SUPPORT. The field splitter loses nothing, and what the decoder does once RSV is 0
(30_encoding.md R80 to R85). -/

namespace Sys2Proof

/-- Two words with the same fields are the same word (R80: the fields cover all 32 bits). -/
theorem CmdFields.ofWord_injective (c d : Word) (h : CmdFields.ofWord c = CmdFields.ofWord d) :
    c = d := by
  simp only [CmdFields.ofWord, CmdFields.mk.injEq] at h
  obtain ⟨h0, h1, h2⟩ := h
  apply BitVec.eq_of_getLsbD_eq
  intro k hk
  by_cases k0 : k < 4
  · have := congrArg (fun v => v.getLsbD k) h0
    simpa [BitVec.getLsbD_extractLsb', k0] using this
  by_cases k1 : k < 6
  · have := congrArg (fun v => v.getLsbD (k - 4)) h1
    simpa [BitVec.getLsbD_extractLsb', show k - 4 < 2 by omega, show 4 + (k - 4) = k by omega] using
      this
  · have := congrArg (fun v => v.getLsbD (k - 6)) h2
    simpa [BitVec.getLsbD_extractLsb', show k - 6 < 26 by omega, show 6 + (k - 6) = k by omega] using
      this

/-- With a bit of RSV set the word is refused for that (R85). -/
theorem decodeFields_reservedBits (f : CmdFields) (h : f.rsv ≠ 0) :
    decodeFields f = .error .reservedBits := if_pos h

/-- The decoder's table, for every OP and OUTFMT with RSV = 0 (R81 to R83). -/
theorem decodeFields_table (op : BitVec 4) (fmt : BitVec 2) (i : Instr) :
    decodeFields { op := op, outfmt := fmt, rsv := 0 } = .ok i ↔
      { op := op, outfmt := fmt, rsv := 0 } = i.fields := by
  revert op fmt i
  intro op fmt i
  cases i <;> revert op fmt <;> decide

end Sys2Proof
end

