-- ==== Sys2Proof/Laws/Memory.lean ====
section
/-! SUPPORT. The laws of the buffer memory: read after write, and that every write keeps the canonical
form and the bounds (20_memory.md R60, R63). -/

namespace Sys2Proof.Machine

@[simp] theorem Memory.get?_nil (a : Nat) : Memory.get? [] a = none := rfl

theorem Memory.get?_write_self (m : List Host.Cell) (a : Nat) (v : Byte) :
    Memory.get? (Memory.write m a v) a = some v := by
  induction m with
  | nil => simp [Memory.write, Memory.get?]
  | cons c rest ih =>
    rcases Nat.lt_trichotomy a c.1 with h | h | h
    · simp [Memory.write, Memory.get?, h]
    · simp [Memory.write, Memory.get?, h]
    · simp [Memory.write, Memory.get?, show ¬a < c.1 by omega, show ¬a = c.1 by omega,
        show ¬c.1 = a by omega, ih]

theorem Memory.get?_write_other (m : List Host.Cell) (a b : Nat) (v : Byte) (h : b ≠ a) :
    Memory.get? (Memory.write m a v) b = Memory.get? m b := by
  induction m with
  | nil => simp [Memory.write, Memory.get?, Ne.symm h]
  | cons c rest ih =>
    rcases Nat.lt_trichotomy a c.1 with h' | h' | h'
    · simp [Memory.write, Memory.get?, h', Ne.symm h]
    · subst h'
      simp [Memory.write, Memory.get?, Ne.symm h]
    · simp [Memory.write, Memory.get?, show ¬a < c.1 by omega, show ¬a = c.1 by omega, ih]

/-- A byte outside the bytes written reads as before. -/
theorem Memory.get?_writeBytes_outside (m : List Host.Cell) (a : Nat) (bs : Bytes) (b : Nat)
    (h : b < a ∨ a + bs.length ≤ b) :
    Memory.get? (Memory.writeBytes m a bs) b = Memory.get? m b := by
  induction bs generalizing m a with
  | nil => rfl
  | cons x xs ih =>
    simp only [List.length_cons] at h
    rw [Memory.writeBytes, ih _ _ (by omega), Memory.get?_write_other _ _ _ _ (by omega)]

/-- The `k`-th byte written reads back. -/
theorem Memory.get?_writeBytes_inside (m : List Host.Cell) (a : Nat) (bs : Bytes) (k : Nat)
    (h : k < bs.length) :
    Memory.get? (Memory.writeBytes m a bs) (a + k) = bs[k]? := by
  induction bs generalizing m a k with
  | nil => simp at h
  | cons x xs ih =>
    cases k with
    | zero =>
      rw [Memory.writeBytes, Memory.get?_writeBytes_outside _ _ _ _ (by omega)]
      simpa using Memory.get?_write_self m a x
    | succ k =>
      rw [Memory.writeBytes, show a + (k + 1) = a + 1 + k by omega,
        ih _ _ _ (by simpa using h)]
      simp

/-- The first address of a write into a list whose addresses lie above a bound. -/
theorem Memory.wf_cons_write (c : Host.Cell) (m : List Host.Cell) (a : Nat) (v : Byte)
    (hc : c.1 < a) (hw : Memory.wf (c :: m) = true) : Memory.wf (c :: Memory.write m a v) = true := by
  induction m generalizing c with
  | nil => simp [Memory.write, Memory.wf, hc]
  | cons d rest ih =>
    simp only [Memory.wf, Bool.and_eq_true, decide_eq_true_eq] at hw
    rcases Nat.lt_trichotomy a d.1 with h | h | h
    · simp [Memory.write, Memory.wf, h, hc, hw.2]
    · subst h
      have := hw.2
      cases rest <;> simp_all [Memory.write, Memory.wf]
    · simp only [Memory.write, show ¬a < d.1 by omega, show ¬a = d.1 by omega, if_false]
      simp only [Memory.wf, Bool.and_eq_true, decide_eq_true_eq]
      exact ⟨hw.1, ih d h hw.2⟩

theorem Memory.wf_write (m : List Host.Cell) (a : Nat) (v : Byte) (h : Memory.wf m = true) :
    Memory.wf (Memory.write m a v) = true := by
  cases m with
  | nil => rfl
  | cons c rest =>
    rcases Nat.lt_trichotomy a c.1 with hlt | heq | hgt
    · simp [Memory.write, Memory.wf, hlt, h]
    · subst heq
      cases rest <;> simp_all [Memory.write, Memory.wf]
    · simpa [Memory.write, show ¬a < c.1 by omega, show ¬a = c.1 by omega] using
        Memory.wf_cons_write c rest a v hgt h

theorem Memory.wf_writeBytes (m : List Host.Cell) (a : Nat) (bs : Bytes) (h : Memory.wf m = true) :
    Memory.wf (Memory.writeBytes m a bs) = true := by
  induction bs generalizing m a with
  | nil => exact h
  | cons x xs ih => exact ih _ _ (Memory.wf_write m a x h)

theorem Memory.within_write (size : Nat) (m : List Host.Cell) (a : Nat) (v : Byte) (ha : a < size)
    (h : Memory.within size m = true) : Memory.within size (Memory.write m a v) = true := by
  induction m with
  | nil => simp [Memory.write, Memory.within, ha]
  | cons c rest ih =>
    simp only [Memory.within, List.all_cons, Bool.and_eq_true, decide_eq_true_eq] at h ih
    rcases Nat.lt_trichotomy a c.1 with h' | h' | h'
    · simpa [Memory.write, Memory.within, h', ha] using h
    · subst h'
      simpa [Memory.write, Memory.within] using h
    · simp only [Memory.write, show ¬a < c.1 by omega, show ¬a = c.1 by omega, if_false,
        Memory.within, List.all_cons, Bool.and_eq_true, decide_eq_true_eq]
      exact ⟨h.1, ih h.2⟩

theorem Memory.within_writeBytes (size : Nat) (m : List Host.Cell) (a : Nat) (bs : Bytes)
    (ha : bs = [] ∨ a + bs.length ≤ size) (h : Memory.within size m = true) :
    Memory.within size (Memory.writeBytes m a bs) = true := by
  induction bs generalizing m a with
  | nil => exact h
  | cons x xs ih =>
    have ha' : a + (x :: xs).length ≤ size := ha.resolve_left (by simp)
    simp only [List.length_cons] at ha'
    exact ih _ _ (.inr (by omega)) (Memory.within_write size m a x (by omega) h)

/-- Writes at two addresses commute on a memory in canonical form. -/
theorem Memory.write_comm (m : List Host.Cell) (a b : Nat) (v w : Byte) (h : a ≠ b)
    (hw : Memory.wf m = true) :
    Memory.write (Memory.write m a v) b w = Memory.write (Memory.write m b w) a v := by
  induction m with
  | nil =>
    rcases Nat.lt_or_gt_of_ne h with h' | h' <;> simp [Memory.write, h', h, Ne.symm h] <;> omega
  | cons c rest ih =>
    have hr : Memory.wf rest = true := by
      cases rest with
      | nil => rfl
      | cons d r =>
        simp only [Memory.wf, Bool.and_eq_true] at hw
        exact hw.2
    rcases Nat.lt_trichotomy a c.1 with h1 | h1 | h1 <;>
      rcases Nat.lt_trichotomy b c.1 with h2 | h2 | h2
    · rcases Nat.lt_or_gt_of_ne h with h' | h'
      · simp [Memory.write, h1, h2, h', Ne.symm h, show ¬b < a by omega]
      · simp [Memory.write, h1, h2, h', h, show ¬a < b by omega]
    · simp [Memory.write, ← h2, Ne.symm h, show ¬b < a by omega, show a < b by omega]
    · simp [Memory.write, h1, show ¬b < c.1 by omega, show ¬b = c.1 by omega,
        show ¬b < a by omega, Ne.symm h]
    · simp [Memory.write, ← h1, show b < a by omega, h, show ¬a < b by omega]
    · omega
    · simp [Memory.write, ← h1, show ¬b < a by omega, Ne.symm h]
    · simp [Memory.write, h2, show ¬a < c.1 by omega, show ¬a = c.1 by omega,
        show ¬a < b by omega, h]
    · simp [Memory.write, ← h2, show ¬a < b by omega, h]
    · simp [Memory.write, show ¬a < c.1 by omega, show ¬a = c.1 by omega, show ¬b < c.1 by omega,
        show ¬b = c.1 by omega, ih hr]

/-- A write commutes with writing bytes elsewhere, on a memory in canonical form. -/
theorem Memory.writeBytes_write_comm (bs : Bytes) (m : List Host.Cell) (a b : Nat) (v : Byte)
    (h : a < b ∨ b + bs.length ≤ a) (hw : Memory.wf m = true) :
    Memory.writeBytes (Memory.write m a v) b bs = Memory.write (Memory.writeBytes m b bs) a v := by
  induction bs generalizing m b with
  | nil => rfl
  | cons x xs ih =>
    simp only [List.length_cons] at h
    simp only [Memory.writeBytes]
    rw [Memory.write_comm _ _ _ _ _ (by omega) hw,
      ih _ _ (by omega) (Memory.wf_write _ _ _ hw)]

end Sys2Proof.Machine
end

