-- ==== Sys2Proof/Laws/State.lean ====
section
/-! SUPPORT. One lemma per field per update of State, and of STATUS, so that no proof unfolds a record
update. -/

namespace Sys2Proof.Machine

/-! ### STATUS -/

@[simp] theorem Status.accepted_busy (st : Status) : (st.accepted).busy = true := rfl
@[simp] theorem Status.accepted_done (st : Status) : (st.accepted).done = false := rfl
@[simp] theorem Status.accepted_err (st : Status) : (st.accepted).err = false := rfl
@[simp] theorem Status.accepted_rej (st : Status) : (st.accepted).rej = st.rej := rfl
@[simp] theorem Status.accepted_errCode (st : Status) : (st.accepted).errCode = .noError := rfl

@[simp] theorem Status.completed_busy (st : Status) : (st.completed).busy = false := rfl
@[simp] theorem Status.completed_done (st : Status) : (st.completed).done = true := rfl
@[simp] theorem Status.completed_err (st : Status) : (st.completed).err = st.err := rfl
@[simp] theorem Status.completed_rej (st : Status) : (st.completed).rej = st.rej := rfl
@[simp] theorem Status.completed_errCode (st : Status) : (st.completed).errCode = st.errCode := rfl

@[simp] theorem Status.failed_busy (st : Status) (c : ErrorCode) : (st.failed c).busy = false := rfl
@[simp] theorem Status.failed_done (st : Status) (c : ErrorCode) : (st.failed c).done = true := rfl
@[simp] theorem Status.failed_err (st : Status) (c : ErrorCode) : (st.failed c).err = true := rfl
@[simp] theorem Status.failed_rej (st : Status) (c : ErrorCode) : (st.failed c).rej = st.rej := rfl
@[simp] theorem Status.failed_errCode (st : Status) (c : ErrorCode) : (st.failed c).errCode = c := rfl

@[simp] theorem Status.rejected_busy (st : Status) : (st.rejected).busy = st.busy := rfl
@[simp] theorem Status.rejected_done (st : Status) : (st.rejected).done = st.done := rfl
@[simp] theorem Status.rejected_err (st : Status) : (st.rejected).err = st.err := rfl
@[simp] theorem Status.rejected_rej (st : Status) : (st.rejected).rej = true := rfl
@[simp] theorem Status.rejected_errCode (st : Status) : (st.rejected).errCode = st.errCode := rfl

@[simp] theorem Status.written_busy (st : Status) (v : Word) : (st.written v).busy = st.busy := rfl
@[simp] theorem Status.written_done (st : Status) (v : Word) : (st.written v).done = (st.done && !v.getLsbD 1) := rfl
@[simp] theorem Status.written_err (st : Status) (v : Word) : (st.written v).err = (st.err && !v.getLsbD 2) := rfl
@[simp] theorem Status.written_rej (st : Status) (v : Word) : (st.written v).rej = (st.rej && !v.getLsbD 3) := rfl
@[simp] theorem Status.written_errCode (st : Status) (v : Word) : (st.written v).errCode = if v.getLsbD 2 then .noError else st.errCode := rfl

/-! ### accept -/

@[simp] theorem State.accept_params (s : State) (c : Word) : (s.accept c).params = s.params := rfl
@[simp] theorem State.accept_regs (s : State) (c : Word) :
    (s.accept c).regs = { s.regs with cmd := c, errInfo := 0 } := rfl
@[simp] theorem State.accept_status (s : State) (c : Word) :
    (s.accept c).status = s.status.accepted := rfl
@[simp] theorem State.accept_h (s : State) (c : Word) : (s.accept c).h = s.h := rfl
@[simp] theorem State.accept_latch (s : State) (c : Word) :
    (s.accept c).latch = { cmd := c, src := s.regs.srcAddr, len := s.regs.len, dst := s.regs.dstAddr, mem := s.mem, draw := s.draws } := rfl
@[simp] theorem State.accept_work (s : State) (c : Word) : (s.accept c).work = s.work := rfl
@[simp] theorem State.accept_tree (s : State) (c : Word) : (s.accept c).tree = s.tree := rfl
@[simp] theorem State.accept_mem (s : State) (c : Word) : (s.accept c).mem = s.mem := rfl
@[simp] theorem State.accept_hazard (s : State) (c : Word) : (s.accept c).hazard = s.hazard := rfl
@[simp] theorem State.accept_tainted (s : State) (c : Word) : (s.accept c).tainted = false := rfl
@[simp] theorem State.accept_draws (s : State) (c : Word) : (s.accept c).draws = s.draws + 1 := rfl
@[simp] theorem State.accept_port (s : State) (c : Word) : (s.accept c).port = s.port := rfl
@[simp] theorem State.accept_agenda (s : State) (c : Word) : (s.accept c).agenda = s.agenda := rfl

/-! ### reject -/

@[simp] theorem State.reject_params (s : State) : (s.reject).params = s.params := rfl
@[simp] theorem State.reject_regs (s : State) : (s.reject).regs = s.regs := rfl
@[simp] theorem State.reject_status (s : State) : (s.reject).status = s.status.rejected := rfl
@[simp] theorem State.reject_h (s : State) : (s.reject).h = s.h := rfl
@[simp] theorem State.reject_latch (s : State) : (s.reject).latch = s.latch := rfl
@[simp] theorem State.reject_work (s : State) : (s.reject).work = s.work := rfl
@[simp] theorem State.reject_tree (s : State) : (s.reject).tree = s.tree := rfl
@[simp] theorem State.reject_mem (s : State) : (s.reject).mem = s.mem := rfl
@[simp] theorem State.reject_hazard (s : State) : (s.reject).hazard = s.hazard := rfl
@[simp] theorem State.reject_tainted (s : State) : (s.reject).tainted = s.tainted := rfl
@[simp] theorem State.reject_draws (s : State) : (s.reject).draws = s.draws := rfl
@[simp] theorem State.reject_port (s : State) : (s.reject).port = s.port := rfl
@[simp] theorem State.reject_agenda (s : State) : (s.reject).agenda = s.agenda := rfl

/-! ### raiseError -/

@[simp] theorem State.raiseError_params (s : State) (c : ErrorCode) (x : Word) :
    (s.raiseError c x).params = s.params := rfl
@[simp] theorem State.raiseError_regs (s : State) (c : ErrorCode) (x : Word) :
    (s.raiseError c x).regs = { s.regs with errInfo := x } := rfl
@[simp] theorem State.raiseError_status (s : State) (c : ErrorCode) (x : Word) :
    (s.raiseError c x).status = s.status.failed c := rfl
@[simp] theorem State.raiseError_h (s : State) (c : ErrorCode) (x : Word) :
    (s.raiseError c x).h = s.h := rfl
@[simp] theorem State.raiseError_latch (s : State) (c : ErrorCode) (x : Word) :
    (s.raiseError c x).latch = freeLatch s.draws := rfl
@[simp] theorem State.raiseError_work (s : State) (c : ErrorCode) (x : Word) :
    (s.raiseError c x).work = s.work := rfl
@[simp] theorem State.raiseError_tree (s : State) (c : ErrorCode) (x : Word) :
    (s.raiseError c x).tree = s.tree := rfl
@[simp] theorem State.raiseError_mem (s : State) (c : ErrorCode) (x : Word) :
    (s.raiseError c x).mem = s.mem := rfl
@[simp] theorem State.raiseError_hazard (s : State) (c : ErrorCode) (x : Word) :
    (s.raiseError c x).hazard = s.hazard := rfl
@[simp] theorem State.raiseError_tainted (s : State) (c : ErrorCode) (x : Word) :
    (s.raiseError c x).tainted = false := rfl
@[simp] theorem State.raiseError_draws (s : State) (c : ErrorCode) (x : Word) :
    (s.raiseError c x).draws = s.draws + 1 := rfl
@[simp] theorem State.raiseError_port (s : State) (c : ErrorCode) (x : Word) :
    (s.raiseError c x).port = s.port := rfl
@[simp] theorem State.raiseError_agenda (s : State) (c : ErrorCode) (x : Word) :
    (s.raiseError c x).agenda = s.agenda := rfl

/-! ### acknowledge -/

@[simp] theorem State.acknowledge_params (s : State) (v : Word) :
    (s.acknowledge v).params = s.params := rfl
@[simp] theorem State.acknowledge_regs (s : State) (v : Word) :
    (s.acknowledge v).regs = { s.regs with errInfo := if v.getLsbD 2 then 0 else s.regs.errInfo } := rfl
@[simp] theorem State.acknowledge_status (s : State) (v : Word) :
    (s.acknowledge v).status = s.status.written v := rfl
@[simp] theorem State.acknowledge_h (s : State) (v : Word) : (s.acknowledge v).h = s.h := rfl
@[simp] theorem State.acknowledge_latch (s : State) (v : Word) :
    (s.acknowledge v).latch = s.latch := rfl
@[simp] theorem State.acknowledge_work (s : State) (v : Word) :
    (s.acknowledge v).work = s.work := rfl
@[simp] theorem State.acknowledge_tree (s : State) (v : Word) :
    (s.acknowledge v).tree = s.tree := rfl
@[simp] theorem State.acknowledge_mem (s : State) (v : Word) : (s.acknowledge v).mem = s.mem := rfl
@[simp] theorem State.acknowledge_hazard (s : State) (v : Word) :
    (s.acknowledge v).hazard = s.hazard := rfl
@[simp] theorem State.acknowledge_tainted (s : State) (v : Word) :
    (s.acknowledge v).tainted = s.tainted := rfl
@[simp] theorem State.acknowledge_draws (s : State) (v : Word) :
    (s.acknowledge v).draws = s.draws := rfl
@[simp] theorem State.acknowledge_port (s : State) (v : Word) :
    (s.acknowledge v).port = s.port := rfl
@[simp] theorem State.acknowledge_agenda (s : State) (v : Word) :
    (s.acknowledge v).agenda = s.agenda := rfl

/-! ### complete -/

@[simp] theorem State.complete_params (s : State) : (s.complete).params = s.params := rfl
@[simp] theorem State.complete_regs (s : State) : (s.complete).regs = s.regs := rfl
@[simp] theorem State.complete_status (s : State) : (s.complete).status = s.status.completed := rfl
@[simp] theorem State.complete_h (s : State) : (s.complete).h = s.h := rfl
@[simp] theorem State.complete_latch (s : State) : (s.complete).latch = freeLatch s.draws := rfl
@[simp] theorem State.complete_work (s : State) : (s.complete).work = s.work := rfl
@[simp] theorem State.complete_tree (s : State) : (s.complete).tree = s.tree := rfl
@[simp] theorem State.complete_mem (s : State) : (s.complete).mem = s.mem := rfl
@[simp] theorem State.complete_hazard (s : State) : (s.complete).hazard = s.hazard := rfl
@[simp] theorem State.complete_tainted (s : State) : (s.complete).tainted = false := rfl
@[simp] theorem State.complete_draws (s : State) : (s.complete).draws = s.draws + 1 := rfl
@[simp] theorem State.complete_port (s : State) : (s.complete).port = s.port := rfl
@[simp] theorem State.complete_agenda (s : State) : (s.complete).agenda = s.agenda := rfl

/-! ### deliver -/

@[simp] theorem State.deliver_params (s : State) (f : OutFmt) (d : Digest) :
    (s.deliver f d).params = s.params := rfl
@[simp] theorem State.deliver_regs (s : State) (f : OutFmt) (d : Digest) :
    (s.deliver f d).regs = s.regs := rfl
@[simp] theorem State.deliver_status (s : State) (f : OutFmt) (d : Digest) :
    (s.deliver f d).status = s.status.completed := rfl
@[simp] theorem State.deliver_h (s : State) (f : OutFmt) (d : Digest) :
    (s.deliver f d).h = s.settledDigest d := rfl
@[simp] theorem State.deliver_latch (s : State) (f : OutFmt) (d : Digest) :
    (s.deliver f d).latch = freeLatch (s.draws + 1) := rfl
@[simp] theorem State.deliver_work (s : State) (f : OutFmt) (d : Digest) :
    (s.deliver f d).work = s.work := rfl
@[simp] theorem State.deliver_tree (s : State) (f : OutFmt) (d : Digest) :
    (s.deliver f d).tree = s.tree := rfl
@[simp] theorem State.deliver_mem (s : State) (f : OutFmt) (d : Digest) :
    (s.deliver f d).mem = Memory.writeBytes s.mem s.dst (s.settledOutput f d) := rfl
@[simp] theorem State.deliver_hazard (s : State) (f : OutFmt) (d : Digest) :
    (s.deliver f d).hazard = s.hazard := rfl
@[simp] theorem State.deliver_tainted (s : State) (f : OutFmt) (d : Digest) :
    (s.deliver f d).tainted = false := rfl
@[simp] theorem State.deliver_draws (s : State) (f : OutFmt) (d : Digest) :
    (s.deliver f d).draws = s.draws + 1 + 1 := rfl
@[simp] theorem State.deliver_port (s : State) (f : OutFmt) (d : Digest) :
    (s.deliver f d).port = s.port := rfl
@[simp] theorem State.deliver_agenda (s : State) (f : OutFmt) (d : Digest) :
    (s.deliver f d).agenda = s.agenda := rfl

/-! ### noteReads -/

@[simp] theorem State.noteReads_params (s : State) (rs : List AddrRange) :
    (s.noteReads rs).params = s.params := rfl
@[simp] theorem State.noteReads_regs (s : State) (rs : List AddrRange) :
    (s.noteReads rs).regs = s.regs := rfl
@[simp] theorem State.noteReads_status (s : State) (rs : List AddrRange) :
    (s.noteReads rs).status = s.status := rfl
@[simp] theorem State.noteReads_h (s : State) (rs : List AddrRange) :
    (s.noteReads rs).h = s.h := rfl
@[simp] theorem State.noteReads_latch (s : State) (rs : List AddrRange) :
    (s.noteReads rs).latch = s.latch := rfl
@[simp] theorem State.noteReads_work (s : State) (rs : List AddrRange) :
    (s.noteReads rs).work = s.work := rfl
@[simp] theorem State.noteReads_tree (s : State) (rs : List AddrRange) :
    (s.noteReads rs).tree = s.tree := rfl
@[simp] theorem State.noteReads_mem (s : State) (rs : List AddrRange) :
    (s.noteReads rs).mem = s.mem := rfl
@[simp] theorem State.noteReads_hazard (s : State) (rs : List AddrRange) :
    (s.noteReads rs).hazard = (s.hazard || s.readsUnwritten rs) := rfl
@[simp] theorem State.noteReads_tainted (s : State) (rs : List AddrRange) :
    (s.noteReads rs).tainted = s.tainted := rfl
@[simp] theorem State.noteReads_draws (s : State) (rs : List AddrRange) :
    (s.noteReads rs).draws = s.draws := rfl
@[simp] theorem State.noteReads_port (s : State) (rs : List AddrRange) :
    (s.noteReads rs).port = s.port := rfl
@[simp] theorem State.noteReads_agenda (s : State) (rs : List AddrRange) :
    (s.noteReads rs).agenda = s.agenda := rfl

/-! ### scrambleWork -/

@[simp] theorem State.scrambleWork_params (s : State) : (s.scrambleWork).params = s.params := rfl
@[simp] theorem State.scrambleWork_regs (s : State) : (s.scrambleWork).regs = s.regs := rfl
@[simp] theorem State.scrambleWork_status (s : State) : (s.scrambleWork).status = s.status := rfl
@[simp] theorem State.scrambleWork_h (s : State) : (s.scrambleWork).h = s.h := rfl
@[simp] theorem State.scrambleWork_latch (s : State) : (s.scrambleWork).latch = s.latch := rfl
@[simp] theorem State.scrambleWork_work (s : State) :
    (s.scrambleWork).work = freeWork s.draws := rfl
@[simp] theorem State.scrambleWork_tree (s : State) : (s.scrambleWork).tree = s.tree := rfl
@[simp] theorem State.scrambleWork_mem (s : State) : (s.scrambleWork).mem = s.mem := rfl
@[simp] theorem State.scrambleWork_hazard (s : State) : (s.scrambleWork).hazard = s.hazard := rfl
@[simp] theorem State.scrambleWork_tainted (s : State) : (s.scrambleWork).tainted = s.tainted := rfl
@[simp] theorem State.scrambleWork_draws (s : State) : (s.scrambleWork).draws = s.draws + 1 := rfl
@[simp] theorem State.scrambleWork_port (s : State) : (s.scrambleWork).port = s.port := rfl
@[simp] theorem State.scrambleWork_agenda (s : State) : (s.scrambleWork).agenda = s.agenda := rfl

/-! ### scrambleTree -/

@[simp] theorem State.scrambleTree_params (s : State) : (s.scrambleTree).params = s.params := rfl
@[simp] theorem State.scrambleTree_regs (s : State) : (s.scrambleTree).regs = s.regs := rfl
@[simp] theorem State.scrambleTree_status (s : State) : (s.scrambleTree).status = s.status := rfl
@[simp] theorem State.scrambleTree_h (s : State) : (s.scrambleTree).h = s.h := rfl
@[simp] theorem State.scrambleTree_latch (s : State) : (s.scrambleTree).latch = s.latch := rfl
@[simp] theorem State.scrambleTree_work (s : State) : (s.scrambleTree).work = s.work := rfl
@[simp] theorem State.scrambleTree_tree (s : State) :
    (s.scrambleTree).tree = freeTree s.draws s.params.maxLeaves := rfl
@[simp] theorem State.scrambleTree_mem (s : State) : (s.scrambleTree).mem = s.mem := rfl
@[simp] theorem State.scrambleTree_hazard (s : State) : (s.scrambleTree).hazard = s.hazard := rfl
@[simp] theorem State.scrambleTree_tainted (s : State) : (s.scrambleTree).tainted = s.tainted := rfl
@[simp] theorem State.scrambleTree_draws (s : State) :
    (s.scrambleTree).draws = s.draws + s.params.maxLeaves + 1 := rfl
@[simp] theorem State.scrambleTree_port (s : State) : (s.scrambleTree).port = s.port := rfl
@[simp] theorem State.scrambleTree_agenda (s : State) : (s.scrambleTree).agenda = s.agenda := rfl

/-! ### answerWord -/

@[simp] theorem State.answerWord_params (s : State) (v : Option Word) :
    (s.answerWord v).params = s.params := by cases v <;> rfl
@[simp] theorem State.answerWord_regs (s : State) (v : Option Word) :
    (s.answerWord v).regs = s.regs := by cases v <;> rfl
@[simp] theorem State.answerWord_status (s : State) (v : Option Word) :
    (s.answerWord v).status = s.status := by cases v <;> rfl
@[simp] theorem State.answerWord_h (s : State) (v : Option Word) :
    (s.answerWord v).h = s.h := by cases v <;> rfl
@[simp] theorem State.answerWord_latch (s : State) (v : Option Word) :
    (s.answerWord v).latch = s.latch := by cases v <;> rfl
@[simp] theorem State.answerWord_work (s : State) (v : Option Word) :
    (s.answerWord v).work = s.work := by cases v <;> rfl
@[simp] theorem State.answerWord_tree (s : State) (v : Option Word) :
    (s.answerWord v).tree = s.tree := by cases v <;> rfl
@[simp] theorem State.answerWord_mem (s : State) (v : Option Word) :
    (s.answerWord v).mem = s.mem := by cases v <;> rfl
@[simp] theorem State.answerWord_hazard (s : State) (v : Option Word) :
    (s.answerWord v).hazard = s.hazard := by cases v <;> rfl
@[simp] theorem State.answerWord_tainted (s : State) (v : Option Word) :
    (s.answerWord v).tainted = s.tainted := by cases v <;> rfl
@[simp] theorem State.answerWord_agenda (s : State) (v : Option Word) :
    (s.answerWord v).agenda = s.agenda := by cases v <;> rfl

/-! ### answerByte -/

@[simp] theorem State.answerByte_params (s : State) (v : Option Byte) :
    (s.answerByte v).params = s.params := by cases v <;> rfl
@[simp] theorem State.answerByte_regs (s : State) (v : Option Byte) :
    (s.answerByte v).regs = s.regs := by cases v <;> rfl
@[simp] theorem State.answerByte_status (s : State) (v : Option Byte) :
    (s.answerByte v).status = s.status := by cases v <;> rfl
@[simp] theorem State.answerByte_h (s : State) (v : Option Byte) :
    (s.answerByte v).h = s.h := by cases v <;> rfl
@[simp] theorem State.answerByte_latch (s : State) (v : Option Byte) :
    (s.answerByte v).latch = s.latch := by cases v <;> rfl
@[simp] theorem State.answerByte_work (s : State) (v : Option Byte) :
    (s.answerByte v).work = s.work := by cases v <;> rfl
@[simp] theorem State.answerByte_tree (s : State) (v : Option Byte) :
    (s.answerByte v).tree = s.tree := by cases v <;> rfl
@[simp] theorem State.answerByte_mem (s : State) (v : Option Byte) :
    (s.answerByte v).mem = s.mem := by cases v <;> rfl
@[simp] theorem State.answerByte_hazard (s : State) (v : Option Byte) :
    (s.answerByte v).hazard = s.hazard := by cases v <;> rfl
@[simp] theorem State.answerByte_tainted (s : State) (v : Option Byte) :
    (s.answerByte v).tainted = s.tainted := by cases v <;> rfl
@[simp] theorem State.answerByte_agenda (s : State) (v : Option Byte) :
    (s.answerByte v).agenda = s.agenda := by cases v <;> rfl

/-! ### writeByte -/

@[simp] theorem State.writeByte_params (s : State) (a : Nat) (v : Byte) :
    (s.writeByte a v).params = s.params := rfl
@[simp] theorem State.writeByte_regs (s : State) (a : Nat) (v : Byte) :
    (s.writeByte a v).regs = s.regs := rfl
@[simp] theorem State.writeByte_status (s : State) (a : Nat) (v : Byte) :
    (s.writeByte a v).status = s.status := rfl
@[simp] theorem State.writeByte_h (s : State) (a : Nat) (v : Byte) :
    (s.writeByte a v).h = s.h := rfl
@[simp] theorem State.writeByte_latch (s : State) (a : Nat) (v : Byte) :
    (s.writeByte a v).latch = s.latch := rfl
@[simp] theorem State.writeByte_work (s : State) (a : Nat) (v : Byte) :
    (s.writeByte a v).work = s.work := rfl
@[simp] theorem State.writeByte_tree (s : State) (a : Nat) (v : Byte) :
    (s.writeByte a v).tree = s.tree := rfl
@[simp] theorem State.writeByte_mem (s : State) (a : Nat) (v : Byte) :
    (s.writeByte a v).mem = Memory.write s.mem a v := rfl
@[simp] theorem State.writeByte_hazard (s : State) (a : Nat) (v : Byte) :
    (s.writeByte a v).hazard = (s.hazard || (s.inReadSet a || s.inWriteSet a)) := rfl
@[simp] theorem State.writeByte_tainted (s : State) (a : Nat) (v : Byte) :
    (s.writeByte a v).tainted = (s.tainted || (s.inReadSet a || s.inWriteSet a)) := rfl
@[simp] theorem State.writeByte_draws (s : State) (a : Nat) (v : Byte) :
    (s.writeByte a v).draws = s.draws := rfl
@[simp] theorem State.writeByte_port (s : State) (a : Nat) (v : Byte) :
    (s.writeByte a v).port = s.port := rfl
@[simp] theorem State.writeByte_agenda (s : State) (a : Nat) (v : Byte) :
    (s.writeByte a v).agenda = s.agenda := rfl

/-! ### hostReset -/

@[simp] theorem State.hostReset_params (s : State) : (s.hostReset).params = s.params := rfl
@[simp] theorem State.hostReset_regs (s : State) : (s.hostReset).regs = Regs.reset := rfl
@[simp] theorem State.hostReset_status (s : State) : (s.hostReset).status = Status.reset := rfl
@[simp] theorem State.hostReset_h (s : State) : (s.hostReset).h = initialHash := rfl
@[simp] theorem State.hostReset_latch (s : State) : (s.hostReset).latch = freeLatch s.draws := rfl
@[simp] theorem State.hostReset_work (s : State) : (s.hostReset).work = freeWork s.draws := rfl
@[simp] theorem State.hostReset_tree (s : State) :
    (s.hostReset).tree = freeTree s.draws s.params.maxLeaves := rfl
@[simp] theorem State.hostReset_mem (s : State) : (s.hostReset).mem = s.memAfterReset := rfl
@[simp] theorem State.hostReset_hazard (s : State) : (s.hostReset).hazard = s.hazard := rfl
@[simp] theorem State.hostReset_tainted (s : State) : (s.hostReset).tainted = false := rfl
@[simp] theorem State.hostReset_draws (s : State) :
    (s.hostReset).draws = s.draws + s.params.maxLeaves + 1 := rfl
@[simp] theorem State.hostReset_port (s : State) : (s.hostReset).port = s.port := rfl
@[simp] theorem State.hostReset_agenda (s : State) : (s.hostReset).agenda = s.agenda := rfl

/-! ### afterTake -/

@[simp] theorem State.afterTake_params (s : State) : (s.afterTake).params = s.params := rfl
@[simp] theorem State.afterTake_regs (s : State) : (s.afterTake).regs = s.regs := rfl
@[simp] theorem State.afterTake_status (s : State) : (s.afterTake).status = s.status := rfl
@[simp] theorem State.afterTake_h (s : State) : (s.afterTake).h = s.h := rfl
@[simp] theorem State.afterTake_latch (s : State) : (s.afterTake).latch = s.latch := rfl
@[simp] theorem State.afterTake_work (s : State) : (s.afterTake).work = s.work := rfl
@[simp] theorem State.afterTake_tree (s : State) : (s.afterTake).tree = s.tree := rfl
@[simp] theorem State.afterTake_mem (s : State) : (s.afterTake).mem = s.mem := rfl
@[simp] theorem State.afterTake_hazard (s : State) : (s.afterTake).hazard = s.hazard := rfl
@[simp] theorem State.afterTake_tainted (s : State) : (s.afterTake).tainted = s.tainted := rfl
@[simp] theorem State.afterTake_draws (s : State) : (s.afterTake).draws = s.draws := rfl
@[simp] theorem State.afterTake_port (s : State) : (s.afterTake).port = s.port := rfl
@[simp] theorem State.afterTake_agenda (s : State) : (s.afterTake).agenda = s.agenda.tail := rfl

end Sys2Proof.Machine
end

