-- ==== Sys2Proof/Laws/Operands.lean ====
section
/-! SUPPORT. What the operand forms, checks and outputs say, one lemma each (20_memory.md R68,
41_sha256_engine.md R131, 42_merkle.md R178, 60_exceptions.md R191). -/

namespace Sys2Proof.Machine

theorem inRange_iff (p : Params) (a n : Nat) :
    inRange p a n = true ↔ n = 0 ∨ a + n ≤ p.memBytes := by simp [inRange]

theorem inRange_eq_false_iff (p : Params) (a n : Nat) :
    inRange p a n = false ↔ n ≠ 0 ∧ p.memBytes < a + n := by simp [inRange]

@[simp] theorem beBytes_length (v k : Nat) : (beBytes v k).length = k := by
  induction k generalizing v with
  | zero => rfl
  | succ k ih => simp [beBytes, ih]

@[simp] theorem digestBytes_length (d : Digest) : (digestBytes d).length = 32 := by
  simp [digestBytes, digestWords]

@[simp] theorem hexForm_length (d : Digest) : (hexForm d).length = 64 := by
  simp [hexForm, List.length_flatMap, hexByte]

@[simp] theorem outBytes_length (fmt : OutFmt) (d : Digest) :
    (outBytes fmt d).length = outSize fmt := by
  cases fmt <;> simp [outBytes, outSize]

@[simp] theorem freeBytes_length (n k : Nat) : (freeBytes n k).length = k := by simp [freeBytes]

@[simp] theorem settledOutput_length (s : State) (fmt : OutFmt) (d : Digest) :
    (s.settledOutput fmt d).length = outSize fmt := by
  unfold State.settledOutput
  split <;> simp

@[simp] theorem engineRead_length (s : State) (a n : Nat) : (s.engineRead a n).length = n := by
  simp [State.engineRead]

theorem covers_iff (rs : List AddrRange) (a : Nat) :
    covers rs a = true ↔ ∃ r ∈ rs, r.1 ≤ a ∧ a < r.1 + r.2 := by simp [covers]

/-- Some byte of the ranges had never been written at acceptance (20_memory.md R76). -/
theorem readsUnwritten_iff (s : State) (rs : List AddrRange) :
    s.readsUnwritten rs = true ↔ ∃ a, covers rs a = true ∧ Memory.get? s.latch.mem a = none := by
  simp only [State.readsUnwritten, List.any_eq_true, List.mem_range, Option.isNone_iff_eq_none,
    covers_iff]
  constructor
  · rintro ⟨r, hr, k, hk, hn⟩
    exact ⟨r.1 + k, ⟨r, hr, by omega, by omega⟩, hn⟩
  · rintro ⟨a, ⟨r, hr, h1, h2⟩, hn⟩
    exact ⟨r, hr, a - r.1, by omega, by rwa [Nat.add_sub_cancel' h1]⟩

theorem firstBadLeaf_eq_none_iff (s : State) :
    s.firstBadLeaf = none ↔
      ∀ k, k < s.len → inRange s.params (s.leafAddr k) (s.leafLen k) = true := by
  simp [State.firstBadLeaf]

/-- The reported leaf is out of range and the first such. -/
theorem firstBadLeaf_eq_some_iff (s : State) (k : Nat) :
    s.firstBadLeaf = some k ↔
      k < s.len ∧ inRange s.params (s.leafAddr k) (s.leafLen k) = false ∧
        ∀ j, j < k → inRange s.params (s.leafAddr j) (s.leafLen j) = true := by
  rw [State.firstBadLeaf, List.find?_range_eq_some]
  simp only [Bool.not_eq_true', Bool.not_not, List.mem_range]
  tauto

/-! ### The checks -/

theorem compressCheck_eq_none_iff (s : State) :
    s.compressCheck = none ↔ inRange s.params s.src 64 = true := by simp [State.compressCheck]

theorem compressCheck_eq_some_iff (s : State) (e : Failure) :
    s.compressCheck = some e ↔ inRange s.params s.src 64 = false ∧ e = (.srcRange, 0) := by
  cases h : inRange s.params s.src 64 <;> simp [State.compressCheck, h, eq_comm]

theorem hashCheck_eq_none_iff (s : State) (fmt : OutFmt) :
    s.hashCheck fmt = none ↔
      inRange s.params s.src s.len = true ∧ inRange s.params s.dst (outSize fmt) = true := by
  cases h : inRange s.params s.src s.len <;>
    cases h' : inRange s.params s.dst (outSize fmt) <;> simp [State.hashCheck, h, h']

theorem storeCheck_eq_none_iff (s : State) (fmt : OutFmt) :
    s.storeCheck fmt = none ↔ inRange s.params s.dst (outSize fmt) = true := by
  simp [State.storeCheck]

theorem tableCheck_eq_none_iff (s : State) (fmt : OutFmt) :
    s.tableCheck fmt = none ↔
      s.len ≠ 0 ∧ s.len ≤ s.params.maxLeaves ∧ inRange s.params s.src (8 * s.len) = true ∧
        inRange s.params s.dst (outSize fmt) = true := by
  unfold State.tableCheck
  split <;> rename_i h0
  · simp [h0]
  split <;> rename_i h1
  · simp; omega
  cases h : inRange s.params s.src (8 * s.len) <;>
    cases h' : inRange s.params s.dst (outSize fmt) <;> ((try simp); try omega)

theorem merkleCheck_eq_none_iff (s : State) (fmt : OutFmt) :
    s.merkleCheck fmt = none ↔ s.tableCheck fmt = none ∧ s.firstBadLeaf = none := by
  unfold State.merkleCheck
  split <;> simp_all

/-- A command that has passed its checks has its output range in the memory (R191, step 5). -/
theorem check_none_output (s : State) (i : Instr) (h : s.check i = none) :
    outSize (outFmtOf i) = 0 ∨ s.dst + outSize (outFmtOf i) ≤ s.params.memBytes := by
  rw [← inRange_iff]
  cases i <;>
    simp only [State.check, compressCheck_eq_none_iff, hashCheck_eq_none_iff,
      merkleCheck_eq_none_iff, tableCheck_eq_none_iff, storeCheck_eq_none_iff] at h <;>
    first
    | rfl
    | exact h
    | exact h.2
    | exact h.1.2.2.2

/-! ### The running command's sets -/

theorem current_eq_some_iff (s : State) (i : Instr) :
    s.current = some i ↔ s.status.busy = true ∧ decode s.latch.cmd = .ok i := by
  unfold State.current
  split
  · next h => split <;> simp_all
  · next h => simp [h]

theorem running_eq_some_iff (s : State) (i : Instr) :
    s.running = some i ↔
      s.status.busy = true ∧ decode s.latch.cmd = .ok i ∧ s.check i = none := by
  simp [State.running, Option.filter_eq_some_iff, current_eq_some_iff, and_assoc]

/-- The bytes whose reads are draws while a command runs (R234). -/
theorem isUnfinished_iff (s : State) (a : Nat) :
    s.isUnfinished a = true ↔ s.status.busy = true ∧ ∃ i, decode s.latch.cmd = .ok i ∧
      s.dst ≤ a ∧ a < s.dst + outSize (outFmtOf i) := by
  unfold State.isUnfinished
  split
  · next i h =>
    obtain ⟨hb, hd⟩ := (current_eq_some_iff s i).1 h
    simp [hb, hd, covers, State.writeSet]
  · next h =>
    constructor
    · simp
    · rintro ⟨hb, i, hd, -⟩
      simp [(current_eq_some_iff s i).2 ⟨hb, hd⟩] at h

/-- A byte that a write would make a hazard as part of the write set reads as a draw. -/
theorem isUnfinished_of_inWriteSet (s : State) (a : Nat) (h : s.inWriteSet a = true) :
    s.isUnfinished a = true := by
  unfold State.inWriteSet at h
  split at h
  · next i hr =>
    obtain ⟨hb, hd, -⟩ := (running_eq_some_iff s i).1 hr
    exact (isUnfinished_iff s a).2 ⟨hb, i, hd, by simpa [covers, State.writeSet] using h⟩
  · simp at h

end Sys2Proof.Machine
end

