-- ==== Sys2Proof/Laws/Exec.lean ====
section
/-! SUPPORT. What the completion of each family of commands is, once its checks have failed or passed, and
what any completion can be (41_sha256_engine.md R140 to R144, 42_merkle.md R178). -/

namespace Sys2Proof.Machine

/-- A completion always answers a next state (60_exceptions.md R194). -/
theorem exec_next (i : Instr) (s : State) : ∃ t, exec i s = .next t := by
  cases i <;> exact ⟨_, rfl⟩

@[simp] theorem noteReads_nil (s : State) : s.noteReads [] = s := by
  simp [State.noteReads, State.readsUnwritten]

theorem compressed_failing (s : State) (e : Failure) (h : s.compressCheck = some e) :
    s.compressed = s.raiseError e.1 e.2 := by simp [State.compressed, h]

theorem compressed_passing (s : State) (h : s.compressCheck = none) :
    s.compressed = ((s.noteReads [(s.src, 64)]).scrambleWork).deliver .plain
      (compressBlock s.h (s.engineRead s.src 64)) := by simp [State.compressed, h]

theorem hashed_failing (s : State) (fmt : OutFmt) (e : Failure) (h : s.hashCheck fmt = some e) :
    s.hashed fmt = s.raiseError e.1 e.2 := by simp [State.hashed, h]

theorem hashed_passing (s : State) (fmt : OutFmt) (h : s.hashCheck fmt = none) :
    s.hashed fmt = ((s.noteReads [(s.src, s.len)]).scrambleWork).deliver fmt
      (sha256 (s.engineRead s.src s.len)) := by simp [State.hashed, h]

theorem stored_failing (s : State) (fmt : OutFmt) (e : Failure) (h : s.storeCheck fmt = some e) :
    s.stored fmt = s.raiseError e.1 e.2 := by simp [State.stored, h]

theorem stored_passing (s : State) (fmt : OutFmt) (h : s.storeCheck fmt = none) :
    s.stored fmt = s.deliver fmt s.h := by simp [State.stored, h]

theorem merkled_failing (s : State) (fmt : OutFmt) (e : Failure) (h : s.merkleCheck fmt = some e) :
    s.merkled fmt = (s.noteReads (s.merkleReads fmt)).raiseError e.1 e.2 := by
  simp [State.merkled, h]

theorem merkled_passing (s : State) (fmt : OutFmt) (root : Digest) (h : s.merkleCheck fmt = none)
    (hr : merkleRoot s.leaves = .ok root) :
    s.merkled fmt =
      ((s.noteReads (s.tableRange s.len :: s.leafRanges)).scrambleWork.scrambleTree).deliver fmt
        root := by
  have ht := (merkleCheck_eq_none_iff s fmt).1 h
  simp [State.merkled, h, hr, State.merkleReads, ht.1, ht.2]

theorem nextLayer_ne_nil (d : List Digest) (h : d ≠ []) : nextLayer d ≠ [] := by
  match d, h with
  | [_], _ => simp [nextLayer]
  | _ :: _ :: _, _ => simp [nextLayer]

theorem reduceLayers_ne_nil (fuel : Nat) (d : List Digest) (h : d ≠ []) :
    reduceLayers fuel d ≠ [] := by
  induction fuel generalizing d with
  | zero => exact h
  | succ n ih =>
    unfold reduceLayers
    split
    · exact ih _ (nextLayer_ne_nil d h)
    · exact h

/-- A command that has passed its checks has at least one value, so it has a root. -/
theorem exists_root_of_check (s : State) (fmt : OutFmt) (h : s.merkleCheck fmt = none) :
    ∃ root, merkleRoot s.leaves = .ok root := by
  have ht := (tableCheck_eq_none_iff s fmt).1 ((merkleCheck_eq_none_iff s fmt).1 h).1
  have hne : reduceLayers s.leaves.length (leafLayer s.leaves) ≠ [] := by
    apply reduceLayers_ne_nil
    simp [leafLayer, State.leaves, ht.1]
  unfold merkleRoot
  match hr : reduceLayers s.leaves.length (leafLayer s.leaves), hne with
  | d :: _, _ => exact ⟨d, rfl⟩

/-- `t` is the delivery of some digest from `s`, after changes of HAZARD, the host-invisible state and
the count of draws alone. -/
def DeliveredFrom (s t : State) (fmt : OutFmt) : Prop :=
  ∃ d w tr n rs,
    t = State.deliver { (s.noteReads rs) with work := w, tree := tr, draws := n } fmt d ∧
    (tr = s.tree ∨ tr = freeTree (s.draws + 1) s.params.maxLeaves)

/-- `t` is an error completion from `s` that has changed nothing but HAZARD before. -/
def FailedFrom (s t : State) (check : Option Failure) : Prop :=
  ∃ e rs, check = some e ∧ t = (s.noteReads rs).raiseError e.1 e.2

theorem compressed_cases (s : State) :
    FailedFrom s s.compressed s.compressCheck ∨
    (s.compressCheck = none ∧ DeliveredFrom s s.compressed .plain) := by
  cases hc : s.compressCheck with
  | some e => exact .inl ⟨e, [], rfl, by rw [compressed_failing s e hc, noteReads_nil]⟩
  | none => exact .inr ⟨rfl, _, _, s.tree, _, [(s.src, 64)], compressed_passing s hc, .inl rfl⟩

theorem hashed_cases (s : State) (fmt : OutFmt) :
    FailedFrom s (s.hashed fmt) (s.hashCheck fmt) ∨
    (s.hashCheck fmt = none ∧ DeliveredFrom s (s.hashed fmt) fmt) := by
  cases hc : s.hashCheck fmt with
  | some e => exact .inl ⟨e, [], rfl, by rw [hashed_failing s fmt e hc, noteReads_nil]⟩
  | none => exact .inr ⟨rfl, _, _, s.tree, _, [(s.src, s.len)], hashed_passing s fmt hc, .inl rfl⟩

theorem stored_cases (s : State) (fmt : OutFmt) :
    FailedFrom s (s.stored fmt) (s.storeCheck fmt) ∨
    (s.storeCheck fmt = none ∧ DeliveredFrom s (s.stored fmt) fmt) := by
  cases hc : s.storeCheck fmt with
  | some e => exact .inl ⟨e, [], rfl, by rw [stored_failing s fmt e hc, noteReads_nil]⟩
  | none =>
    exact .inr ⟨rfl, s.h, s.work, s.tree, s.draws, [], by
      rw [stored_passing s fmt hc, noteReads_nil], .inl rfl⟩

theorem merkled_cases (s : State) (fmt : OutFmt) :
    FailedFrom s (s.merkled fmt) (s.merkleCheck fmt) ∨
    (s.merkleCheck fmt = none ∧ DeliveredFrom s (s.merkled fmt) fmt) := by
  cases hc : s.merkleCheck fmt with
  | some e => exact .inl ⟨e, s.merkleReads fmt, rfl, merkled_failing s fmt e hc⟩
  | none =>
    obtain ⟨root, hr⟩ := exists_root_of_check s fmt hc
    exact .inr ⟨rfl, _, _, _, _, _, merkled_passing s fmt root hc hr, .inr rfl⟩

/-- Everything a completion can be: an error completion, the bare completion of `nop`, that of `init`,
or the delivery of a digest by a command that has passed its checks. -/
theorem exec_cases (i : Instr) (s t : State) (h : exec i s = .next t) :
    FailedFrom s t (s.check i) ∨
    (i = .nop ∧ t = s.complete) ∨
    (i = .init ∧ t = State.complete { s with h := initialHash }) ∨
    (s.check i = none ∧ i ≠ .nop ∧ i ≠ .init ∧ DeliveredFrom s t (outFmtOf i)) := by
  have wrap {i : Instr} {t : State} (hn : i ≠ .nop) (hi : i ≠ .init)
      (h : FailedFrom s t (s.check i) ∨ (s.check i = none ∧ DeliveredFrom s t (outFmtOf i))) :
      FailedFrom s t (s.check i) ∨ (i = .nop ∧ t = s.complete) ∨
      (i = .init ∧ t = State.complete { s with h := initialHash }) ∨
      (s.check i = none ∧ i ≠ .nop ∧ i ≠ .init ∧ DeliveredFrom s t (outFmtOf i)) :=
    h.imp id fun h => .inr (.inr ⟨h.1, hn, hi, h.2⟩)
  cases i <;> cases h
  case nop => exact .inr (.inl ⟨rfl, rfl⟩)
  case init => exact .inr (.inr (.inl ⟨rfl, rfl⟩))
  case compress => exact wrap (by decide) (by decide) (compressed_cases s)
  case hash => exact wrap (by decide) (by decide) (hashed_cases s .plain)
  case hashBin => exact wrap (by decide) (by decide) (hashed_cases s .bin)
  case hashHex => exact wrap (by decide) (by decide) (hashed_cases s .hex)
  case merkle => exact wrap (by decide) (by decide) (merkled_cases s .plain)
  case merkleBin => exact wrap (by decide) (by decide) (merkled_cases s .bin)
  case merkleHex => exact wrap (by decide) (by decide) (merkled_cases s .hex)
  case storeBin => exact wrap (by decide) (by decide) (stored_cases s .bin)
  case storeHex => exact wrap (by decide) (by decide) (stored_cases s .hex)

end Sys2Proof.Machine
end

