-- ==== Sys2Proof/Laws/PerInstr.lean ====
section
/-! SUPPORT. What holds of every command as syntax, one lemma per constructor (30_encoding.md R80,
R83). -/

namespace Sys2Proof.Laws.EncodeFields

/-- The word written for a command splits, by the field places of R80, into the OP and OUTFMT of
its row of R83 with RSV = 0, and these are well formed. -/
def Statement (i : Instr) : Prop := CmdFields.ofWord (encode i) = i.fields ∧ i.wf = true

theorem nop : Statement .nop := by unfold Statement; decide
theorem init : Statement .init := by unfold Statement; decide
theorem compress : Statement .compress := by unfold Statement; decide
theorem hash : Statement .hash := by unfold Statement; decide
theorem hashBin : Statement .hashBin := by unfold Statement; decide
theorem hashHex : Statement .hashHex := by unfold Statement; decide
theorem merkle : Statement .merkle := by unfold Statement; decide
theorem merkleBin : Statement .merkleBin := by unfold Statement; decide
theorem merkleHex : Statement .merkleHex := by unfold Statement; decide
theorem storeBin : Statement .storeBin := by unfold Statement; decide
theorem storeHex : Statement .storeHex := by unfold Statement; decide

end Sys2Proof.Laws.EncodeFields
end

