-- ==== Sys2Proof/Laws/Step.lean ====
section
/-! SUPPORT. What one step can be: the register accesses that are part of the interface (10_state.md
R20), the cases of a host step, of the engine's turn and of a step (00_scope.md R11). -/

namespace Sys2Proof.Machine

theorem regAccess_at (p : Params) (off : Nat) (h : off < 256) (h4 : off % 4 = 0) :
    regAccess p (p.regBase + off) 32 = .ok off := by
  simp [regAccess, h4, show ¬256 ≤ off by omega]

theorem regAccess_eq_ok_iff (p : Params) (addr bits off : Nat) :
    regAccess p addr bits = .ok off ↔
      addr = p.regBase + off ∧ off < 256 ∧ bits = 32 ∧ off % 4 = 0 := by
  constructor
  · intro h
    unfold regAccess at h
    split at h
    · simp at h
    split at h
    · simp at h
    split at h
    · simp at h
    simp only [Except.ok.injEq] at h
    omega
  · rintro ⟨rfl, h, rfl, h4⟩
    exact regAccess_at p off h h4

theorem regAccess_eq_error_iff (p : Params) (addr bits : Nat) :
    (∃ r, regAccess p addr bits = .error r) ↔ regAccessOk p addr bits = false := by
  unfold regAccess regAccessOk
  split
  · simp; omega
  split
  · simp_all
  split
  · simp_all
  · simp_all

theorem hostStep_regRead (s : State) (off : Nat) (h : off < 256) (h4 : off % 4 = 0) :
    hostStep (.regRead (s.params.regBase + off) 32) s = .next (s.readOffset off) := by
  simp [hostStep, regAccess_at s.params off h h4]

theorem hostStep_regWrite (s : State) (off : Nat) (v : Word) (h : off < 256) (h4 : off % 4 = 0) :
    hostStep (.regWrite (s.params.regBase + off) 32 v) s = .next (s.writeOffset off v) := by
  simp [hostStep, regAccess_at s.params off h h4]

theorem regAt_h (i : Fin 8) : regAt (0x040 + 4 * i.val) = some (.h i) := by
  revert i
  decide

/-- The register at an offset has that offset. -/
theorem regAt_eq_some (off : Nat) (r : RegName) (h4 : off % 4 = 0) (h : regAt off = some r) :
    off = regOffset r := by
  unfold regAt at h
  repeat' (split at h; (first | (cases h; assumption) | skip))
  · cases h
    simp only [regOffset, Fin.ofNat]
    omega
  · cases h

/-- What a register write can do. -/
theorem writeReg_cases (s : State) (r : RegName) (v : Word) :
    (s.writeReg r v = s) ∨
    (∃ g, s.writeReg r v = { s with regs := g } ∧ g.errInfo = s.regs.errInfo) ∨
    (s.writeReg r v = s.acknowledge v) ∨
    (s.status.busy = true ∧ s.writeReg r v = s.reject) ∨
    (s.status.busy = false ∧ r = .cmd ∧ s.writeReg r v = s.accept v) ∨
    (s.status.busy = false ∧ ∃ i, r = .h i ∧
      s.writeReg r v = { s with h := setDigestWord s.h i v }) := by
  cases r
  case cmd => cases hb : s.status.busy <;> simp [State.writeReg, hb]
  case h i => cases hb : s.status.busy <;> simp [State.writeReg, hb]
  case ctrl => exact .inr (.inl ⟨_, rfl, rfl⟩)
  case srcAddr => exact .inr (.inl ⟨_, rfl, rfl⟩)
  case len => exact .inr (.inl ⟨_, rfl, rfl⟩)
  case dstAddr => exact .inr (.inl ⟨_, rfl, rfl⟩)
  case status => exact .inr (.inr (.inl rfl))
  case id => exact .inl rfl
  case errInfo => exact .inl rfl
  case capMem => exact .inl rfl
  case capLeaves => exact .inl rfl

/-- What a host step that is not refused can be. -/
theorem hostStep_cases (a : HostAction) (s t : State) (h : hostStep a s = .next t) :
    (∃ v, t = s.answerWord v) ∨ (∃ v, t = s.answerByte v) ∨
    (∃ off bits v, a = .regWrite (s.params.regBase + off) bits v ∧ off % 4 = 0 ∧ off < 256 ∧
      bits = 32 ∧ t = s.writeOffset off v) ∨
    (∃ b v, a = .memWrite b v ∧ b < s.params.memBytes ∧ t = s.writeByte b v) ∨
    (a = .reset ∧ t = s.hostReset) := by
  cases a with
  | regRead addr bits =>
    simp only [hostStep] at h
    split at h
    · cases h
      unfold State.readOffset
      split
      · exact .inl ⟨_, rfl⟩
      · exact .inl ⟨_, rfl⟩
    · cases h
  | regWrite addr bits v =>
    simp only [hostStep] at h
    split at h
    · next off ho =>
      obtain ⟨rfl, h1, h2, h3⟩ := (regAccess_eq_ok_iff ..).1 ho
      cases h
      exact .inr (.inr (.inl ⟨off, bits, v, rfl, h3, h1, h2, rfl⟩))
    · cases h
  | memRead b =>
    simp only [hostStep] at h
    split at h
    · cases h
      exact .inr (.inl ⟨_, rfl⟩)
    · cases h
  | memWrite b v =>
    simp only [hostStep] at h
    split at h
    · next hb =>
      cases h
      exact .inr (.inr (.inr (.inl ⟨b, v, rfl, hb, rfl⟩)))
    · cases h
  | reset =>
    cases h
    exact .inr (.inr (.inr (.inr ⟨rfl, rfl⟩)))

/-- What the engine's turn can be: nothing when idle, the completion of a command, or ILLEGAL_CMD. -/
theorem engineStep_cases (s t : State) (h : engineStep s = .next t) :
    (s.status.busy = false ∧ t = s) ∨
    (s.status.busy = true ∧ ∃ i, decode s.latch.cmd = .ok i ∧ exec i s = .next t) ∨
    (s.status.busy = true ∧ (∃ e, decode s.latch.cmd = .error e) ∧ t = s.raiseError .illegalCmd 0) := by
  unfold engineStep at h
  split at h
  · next hb =>
    split at h
    · next i hi => exact .inr (.inl ⟨hb, i, hi, h⟩)
    · next e he =>
      cases h
      exact .inr (.inr ⟨hb, ⟨e, he⟩, rfl⟩)
  · next hb =>
    cases h
    exact .inl ⟨by simpa using hb, rfl⟩

/-- The engine's turn is never refused. -/
theorem engineStep_next (s : State) : ∃ t, engineStep s = .next t := by
  unfold engineStep
  split
  · split
    · exact exec_next _ _
    · exact ⟨_, rfl⟩
  · exact ⟨_, rfl⟩

/-- A step is the engine's turn or the host's, on the state whose next event has been taken. -/
theorem step_cases (s t : State) (h : step s = .next t) :
    ((s.agenda = [] ∨ ∃ rest, s.agenda = .engine :: rest) ∧ engineStep s.afterTake = .next t) ∨
    (∃ a rest, s.agenda = .host a :: rest ∧ hostStep a s.afterTake = .next t) := by
  unfold step at h
  split at h
  · next ha =>
    refine .inl ⟨.inl ha, ?_⟩
    rw [show s.afterTake = s by unfold State.afterTake; rw [ha]; cases s; simp_all]
    exact h
  · next rest ha => exact .inl ⟨.inr ⟨_, ha⟩, h⟩
  · next a rest ha => exact .inr ⟨a, rest, ha, h⟩

end Sys2Proof.Machine
end

