-- ==== Sys2Proof/Tests/Slice0.lean ====
section
/-! SUPPORT. The model's own tests: ill-formed terms, words written out from 30_encoding.md R80 to R83,
single steps against 95_test_vectors.md, and for every statement that has hypotheses a state that meets
them. Expected values are the spec's, named in each docstring. -/

namespace Sys2Proof.Machine

/-! ### Ill-formed terms -/

theorem test_every_command_is_well_formed : (Instr.all.all Instr.wf) = true := by decide

theorem test_reserved_op_is_ill_formed :
    CmdFields.opDefined { op := 6, outfmt := 0, rsv := 0 } = false ∧
    CmdFields.wf { op := 6, outfmt := 0, rsv := 0 } = false := by decide

theorem test_reserved_outfmt_is_ill_formed :
    CmdFields.outfmtDefined { op := 3, outfmt := 3, rsv := 0 } = false ∧
    CmdFields.wf { op := 3, outfmt := 3, rsv := 0 } = false := by decide

theorem test_outfmt_of_nop_and_of_store_is_checked :
    CmdFields.outfmtAdmitted { op := 0, outfmt := 1, rsv := 0 } = false ∧
    CmdFields.outfmtAdmitted { op := 5, outfmt := 0, rsv := 0 } = false := by decide

theorem test_reserved_bits_are_ill_formed :
    CmdFields.wf { op := 3, outfmt := 0, rsv := 1 } = false := by decide

theorem test_params_bounds :
    Params.wf { memBytes := 63, maxLeaves := 1, regBase := 0 } = false ∧
    Params.wf { memBytes := 2 ^ 31 + 1, maxLeaves := 1, regBase := 0 } = false ∧
    Params.wf { memBytes := 64, maxLeaves := 0, regBase := 0 } = false ∧
    Params.wf { memBytes := 64, maxLeaves := 2 ^ 31 + 1, regBase := 0 } = false ∧
    Params.wf { memBytes := 64, maxLeaves := 1, regBase := 0 } = true := by decide

theorem test_host_access_width_alignment_window_and_memory :
    HostAction.wf Params.ofExamples (.regRead 0x008 16) = false ∧
    HostAction.wf Params.ofExamples (.regWrite 0x00A 32 0) = false ∧
    HostAction.wf Params.ofExamples (.regRead 0x100 32) = false ∧
    HostAction.wf Params.ofExamples (.memRead 4096) = false ∧
    HostAction.wf Params.ofExamples (.memWrite 4096 0) = false ∧
    HostAction.wf Params.ofExamples (.memRead 4095) = true := by decide

theorem test_pseudo_needs_its_destination :
    Pseudo.wf (.sha256 .hex 0 0 none) = false ∧ Pseudo.wf (.root .bin 0 0 none) = false ∧
    Pseudo.wf (.dump .plain 0) = false ∧ Pseudo.wf (.sha256 .plain 0 0 none) = true := by decide

/-! ### Decoding: words written as RSV, OUTFMT, OP from the table of R83 -/

theorem test_decode_hash_unit_words :
    decode (0#26 ++ 0b00#2 ++ 0b0000#4 : BitVec 32) = .ok .nop ∧
    decode (0#26 ++ 0b00#2 ++ 0b0001#4 : BitVec 32) = .ok .init ∧
    decode (0#26 ++ 0b00#2 ++ 0b0010#4 : BitVec 32) = .ok .compress ∧
    decode (0#26 ++ 0b00#2 ++ 0b0011#4 : BitVec 32) = .ok .hash ∧
    decode (0#26 ++ 0b01#2 ++ 0b0011#4 : BitVec 32) = .ok .hashBin ∧
    decode (0#26 ++ 0b10#2 ++ 0b0011#4 : BitVec 32) = .ok .hashHex ∧
    decode (0#26 ++ 0b01#2 ++ 0b0101#4 : BitVec 32) = .ok .storeBin ∧
    decode (0#26 ++ 0b10#2 ++ 0b0101#4 : BitVec 32) = .ok .storeHex := by decide

theorem test_decode_merkle_unit_words :
    decode (0#26 ++ 0b00#2 ++ 0b0100#4 : BitVec 32) = .ok .merkle ∧
    decode (0#26 ++ 0b01#2 ++ 0b0100#4 : BitVec 32) = .ok .merkleBin ∧
    decode (0#26 ++ 0b10#2 ++ 0b0100#4 : BitVec 32) = .ok .merkleHex := by decide

/-- The illegal words of 95_test_vectors.md C-32 to C-44, each with its cause of R85. -/
theorem test_decode_refuses_illegal_words :
    decode 0x00000005 = .error .outfmtNotAdmitted ∧ decode 0x00000006 = .error .reservedOp ∧
    decode 0x0000000f = .error .reservedOp ∧ decode 0x00000010 = .error .outfmtNotAdmitted ∧
    decode 0x00000011 = .error .outfmtNotAdmitted ∧ decode 0x00000012 = .error .outfmtNotAdmitted ∧
    decode 0x00000020 = .error .outfmtNotAdmitted ∧ decode 0x00000033 = .error .reservedOutfmt ∧
    decode 0x00000034 = .error .reservedOutfmt ∧ decode 0x00000035 = .error .reservedOutfmt ∧
    decode 0x00000040 = .error .reservedBits ∧ decode 0x80000003 = .error .reservedBits ∧
    decode 0xffffffff = .error .reservedBits := by decide

/-- R87: another spelling is refused. -/
theorem test_assembler_refuses_other_spellings :
    assemble "hash.hex" = some 0x00000023 ∧ assemble "HASH" = none ∧ assemble "store" = none := by
  decide

/-! ### Word functions (V-FN-1 to V-FN-5) and padding (V-PAD) -/

theorem test_add32_wraps : add32 0xffffffff 0x00000001 = 0 ∧ add32 0x6a09e667 0xbb67ae85 = 0x257194ec := by
  decide

theorem test_rotr : rotr 0x12345678 13 = 0xb3c091a2 ∧ rotr 0x00000001 31 = 0x00000002 := by decide

theorem test_sigmas_of_deadbeef :
    ssig0 0xdeadbeef = 0xabd31b0b ∧ ssig1 0xdeadbeef = 0x689dbfec ∧
    bsig0 0xdeadbeef = 0xb62e25ac ∧ bsig1 0xdeadbeef = 0x345e14a3 := by decide

theorem test_ch_and_maj :
    ch 0x510e527f 0x9b05688c 0x1f83d9ab = 0x1f85c98c ∧
    maj 0x6a09e667 0xbb67ae85 0x3c6ef372 = 0x3a6fe667 := by decide

/-- V-PAD: 55 bytes take one block, 56 take two. -/
theorem test_block_counts :
    nblocks 0 = 1 ∧ nblocks 55 = 1 ∧ nblocks 56 = 2 ∧ nblocks 119 = 2 ∧ nblocks 120 = 3 := by decide

/-- V-SCHED-2, `W[16]`, `W[17]` and `W[18]` of "abc". -/
theorem test_schedule_of_abc :
    ((schedule (padBlock [0x61, 0x62, 0x63] 0)).drop 16).take 3 =
      [0x61626380, 0x000f0000, 0x7da86405] := by decide +kernel

/-- V-ROUND-1, rounds 0 and 1 of the empty message. -/
theorem test_first_rounds_of_the_empty_message :
    rounds 2 (schedule (padBlock [] 0)) initialHash =
      { h0 := 0x9ce564d0, h1 := 0x7c08884d, h2 := 0x6a09e667, h3 := 0xbb67ae85
        h4 := 0x2001b256, h5 := 0x18c7e2a2, h6 := 0x510e527f, h7 := 0x9b05688c } := by decide +kernel

/-- R180: P7's nine one-byte values take 39 compressions, T3's three take 11. -/
theorem test_merkle_costs :
    merkleCost (List.replicate 9 1) = 39 ∧ merkleCost (List.replicate 3 1) = 11 := by decide

/-! ### Single steps -/

/-- The example instance, idle, with the bytes and the operand registers given. -/
def loaded (m : List Host.Cell) (src len dst : Word) : State :=
  { State.reset with
    mem := m
    regs := { Regs.reset with srcAddr := src, len := len, dstAddr := dst } }

/-- The same, a command having just been accepted. -/
def running (m : List Host.Cell) (src len dst : Word) (i : Instr) : State :=
  (loaded m src len dst).accept (encode i)

/-- Bytes at an address in a memory never written before. -/
def bytesAt (a : Nat) (bs : Bytes) : List Host.Cell := Memory.writeBytes [] a bs

/-- What a completion shows: STATUS, ERRINFO and `H0`. -/
def shown (i : Instr) (s : State) : Option (Word × Word × Word) :=
  match exec i s with
  | .next t => some (t.status.word, t.regs.errInfo, t.h.h0)
  | _ => none

/-- `n` bytes after a completion. -/
def written (i : Instr) (s : State) (a n : Nat) : List (Option Byte) :=
  match exec i s with
  | .next t => (List.range n).map fun k => Memory.get? t.mem (a + k)
  | _ => []

/-- "abc" at 0x100. -/
def abc : List Host.Cell := bytesAt 0x100 [0x61, 0x62, 0x63]

/-- The padded block of "abc" (V-PAD), at an address. -/
def abcBlock (a : Nat) : List Host.Cell :=
  bytesAt a ([0x61, 0x62, 0x63, 0x80] ++ List.replicate 59 0 ++ [0x18])

/-- One entry (FFFFFFFF, 0) at 0x400, `n` times. -/
def emptyLeaves (n : Nat) : List Host.Cell :=
  bytesAt 0x400 ((List.replicate n ([0xff, 0xff, 0xff, 0xff, 0, 0, 0, 0] : Bytes)).flatten)

/-- Tbad1: entries (0x300, 1), (4096, 1), (FFFFFFFF, 2) at 0x400, "abc" at 0x300. -/
def badLeaves : List Host.Cell :=
  Memory.writeBytes (bytesAt 0x300 [0x61, 0x62, 0x63]) 0x400
    [0, 0, 3, 0, 0, 0, 0, 1, 0, 0, 0x10, 0, 0, 0, 0, 1, 0xff, 0xff, 0xff, 0xff, 0, 0, 0, 2]

/-- C-1. -/
theorem test_nop : shown .nop (running [] 0 0 0 .nop) = some (0x2, 0, 0x6a09e667) := by decide

/-- C-2, `H3` having been 0. -/
theorem test_init :
    (match exec .init { running [] 0 0 0 .init with h := zeroDigest } with
      | .next t => t.h.h3 | _ => 0) = 0xa54ff53a := by decide

/-- C-4. -/
theorem test_compress_at_the_end_of_memory :
    shown .compress (running (abcBlock 4032) 0xfc0 0 0 .compress) = some (0x2, 0, 0xba7816bf) := by
  decide +kernel

/-- C-5. -/
theorem test_compress_out_of_range :
    shown .compress (running [] 0xfc1 0 0 .compress) = some (0x306, 0, 0x6a09e667) := by decide

/-- C-6. -/
theorem test_hash_of_abc :
    shown .hash (running abc 0x100 3 0 .hash) = some (0x2, 0, 0xba7816bf) := by decide +kernel

/-- C-15. -/
theorem test_hash_checks_the_source_first :
    shown .hash (running [] 0xffffffff 2 0xffffffff .hash) = some (0x306, 0, 0x6a09e667) := by decide

/-- C-7. -/
theorem test_hash_bin_writes_the_digest :
    written .hashBin (running abc 0x100 3 0x200 .hashBin) 0x200 4 =
      [some 0xba, some 0x78, some 0x16, some 0xbf] := by decide +kernel

/-- C-14. -/
theorem test_hash_bin_output_out_of_range :
    shown .hashBin (running abc 0x100 3 0xfe1 .hashBin) = some (0x406, 0, 0x6a09e667) := by decide

/-- C-16: the output overlaps the message. -/
theorem test_hash_hex_over_its_message :
    written .hashHex (running abc 0x100 3 0x102 .hashHex) 0x101 3 =
      [some 0x62, some 0x62, some 0x61] := by decide +kernel

/-- C-9: the empty message is legal at address FFFFFFFF. -/
theorem test_hash_hex_of_the_empty_message :
    written .hashHex (running [] 0xffffffff 0 0x200 .hashHex) 0x23e 3 =
      [some 0x35, some 0x35, none] := by decide +kernel

/-- C-26 without a suffix: one zero-length leaf, whose digest is the empty message's. -/
theorem test_merkle_of_one_empty_leaf :
    shown .merkle (running (emptyLeaves 1) 0x400 1 0x500 .merkle) = some (0x2, 0, 0xe3b0c442) := by
  decide +kernel

/-- C-23. -/
theorem test_merkle_table_out_of_range :
    shown .merkle (running [] 0xfa0 13 0 .merkle) = some (0x306, 0, 0x6a09e667) := by decide

/-- C-25: the first bad leaf is 1. -/
theorem test_merkle_bin_reports_the_first_bad_leaf :
    shown .merkleBin (running badLeaves 0x400 3 0x500 .merkleBin) = some (0x506, 1, 0x6a09e667) := by
  decide +kernel

/-- V-MK-2: the root of "a", "b", 5 compressions. -/
theorem test_merkle_bin_of_two_leaves :
    written .merkleBin
      (running
        (Memory.writeBytes (bytesAt 0x300 [0x61, 0x62]) 0x400
          [0, 0, 3, 0, 0, 0, 0, 1, 0, 0, 3, 1, 0, 0, 0, 1]) 0x400 2 0x500 .merkleBin) 0x500 4 =
      [some 0x62, some 0xaf, some 0x5c, some 0x3c] := by decide +kernel

/-- C-20. -/
theorem test_merkle_hex_of_no_leaf :
    shown .merkleHex (running [] 0xffffffff 0 0xffffffff .merkleHex) = some (0x106, 0, 0x6a09e667) := by
  decide

/-- C-21. -/
theorem test_merkle_hex_of_too_many_leaves :
    shown .merkleHex (running [] 0xffffffff 17 0xffffffff .merkleHex) =
      some (0x606, 0, 0x6a09e667) := by decide

/-- C-31. -/
theorem test_store_bin_at_the_end_of_memory :
    written .storeBin (running [] 0 0 0xfe0 .storeBin) 0xfdf 3 = [none, some 0x6a, some 0x09] := by
  decide +kernel

/-- C-30. -/
theorem test_store_bin_out_of_range :
    shown .storeBin (running [] 0 0 0xfe1 .storeBin) = some (0x406, 0, 0x6a09e667) := by decide

/-- C-29: "6a09". -/
theorem test_store_hex :
    written .storeHex (running [] 0 0 0x500 .storeHex) 0x500 4 =
      [some 0x36, some 0x61, some 0x30, some 0x39] := by decide +kernel

/-! ### Registers (V-REG) -/

/-- What a register read answers. -/
def answer (s : State) (off : Nat) : Option Word :=
  match hostStep (.regRead off 32) s with
  | .next t => some t.port.rdata
  | _ => none

/-- G-1 and G-2. -/
theorem test_reset_reads :
    answer State.reset 0x000 = some 0x534d4501 ∧ answer State.reset 0x020 = some 0x1000 ∧
    answer State.reset 0x024 = some 0x10 ∧ answer State.reset 0x044 = some 0xbb67ae85 ∧
    answer State.reset 0x05c = some 0x5be0cd19 := by decide

/-- G-4 and G-5. -/
theorem test_ctrl_and_reserved_reads :
    answer (State.reset.writeReg .ctrl 0xffffffff) 0x004 = some 1 ∧
    answer State.reset 0x028 = some 0 ∧ answer (State.reset.writeOffset 0x0FC 1) 0x0FC = some 0 := by
  decide

/-- G-9: the second CMD write is refused. -/
theorem test_busy_cmd_write :
    answer ((running [] 0 0 0 .nop).writeReg .cmd 1) 0x008 = some 0x9 ∧
    answer ((running [] 0 0 0 .nop).writeReg .cmd 1) 0x00C = some 0 := by decide

/-- G-6: W1C, and clearing ERR clears ERRCODE. -/
theorem test_status_acknowledgement :
    answer (((running [] 0 0 0 .nop).raiseError .illegalCmd 0).writeReg .status 2) 0x008 =
      some 0x204 ∧
    answer ((((running [] 0 0 0 .nop).raiseError .illegalCmd 0).writeReg .status 2).writeReg .status 4)
      0x008 = some 0 := by decide

/-! ### The host program notation (R88, R89) -/

/-- The transactions of P1. -/
theorem test_expansion_of_a_pseudo_instruction :
    (expandPseudo 0 (.sha256 .hex 0x100 3 (some 0x200))).map (programEvents Params.ofExamples) =
      some [.host (.regWrite 0x010 32 0x100), .host (.regWrite 0x014 32 3),
        .host (.regWrite 0x018 32 0x200), .host (.regWrite 0x00C 32 0x23), .engine,
        .host (.regRead 0x008 32)] := by decide

/-- P9, run A: the completion of `hash` before the write of `store.hex`. -/
theorem test_a_completion_between_two_commands :
    withTurns [0, 1] (programEvents Params.ofExamples [.command .hash, .command .storeHex]) =
      [.host (.regWrite 0x00C 32 0x3), .engine, .host (.regWrite 0x00C 32 0x25)] := by decide

/-! ### Witnesses: states that meet the hypotheses of the statements -/

theorem running_accepted (m : List Host.Cell) (src len dst : Word) (i : Instr) :
    (running m src len dst i).Accepted := ⟨rfl, rfl, rfl, rfl, rfl⟩

/-- A running command with nothing left and with the engine's turn next, an idle engine with a host event
next, and an illegal word running. -/
theorem witness_StepRunsTheDecodedCommand :
    ((running [] 0 0 0 .init).status.busy = true ∧
      decode (running [] 0 0 0 .init).latch.cmd = .ok .init ∧
      (running [] 0 0 0 .init).agenda = []) ∧
    ((State.reset.withFetchWord 32 1).agenda = .engine :: [] ∧
      decode (State.reset.withFetchWord 32 1).latch.cmd = .ok .init) ∧
    (State.agenda { State.reset with agenda := [.host (.memWrite 0 1)] } =
        .host (.memWrite 0 1) :: [] ∧
      State.reset.status.busy = false) ∧
    ((State.reset.accept 6).status.busy = true ∧
      decode (State.reset.accept 6).latch.cmd = .error .reservedOp) := by decide

theorem witness_RotrMovesEachBitRight :
    (1 ≤ 1 ∧ 1 ≤ 31 ∧ 0 < 32) ∧ (1 ≤ 31 ∧ 31 ≤ 31 ∧ 31 < 32) := by decide

theorem witness_ChooseAndMajorityByBit : 0 < 32 ∧ 31 < 32 := by decide

theorem witness_ScheduleFollowsTheRecurrence :
    (padBlock [] 0).length = 64 ∧ 15 < 16 ∧ (16 ≤ 16 ∧ 16 < 64) ∧ (16 ≤ 63 ∧ 63 < 64) := by
  decide +kernel

theorem witness_SixteenWordWindowComputesCompress : (padBlock [] 0).length = 64 := by decide +kernel

theorem witness_DigestAndHexFormsTellDigestsApart :
    digestBytes initialHash ≠ digestBytes zeroDigest ∧ 31 < 32 ∧ 3 < 4 := by decide +kernel

theorem witness_NextLayerPairsConsecutiveDigests :
    0 < [zeroDigest, initialHash, zeroDigest].length / 2 ∧
    [zeroDigest, initialHash, zeroDigest].length % 2 = 1 := by decide

theorem witness_ReductionTakesLogarithmicRounds : [zeroDigest, initialHash] ≠ [] := by decide

theorem witness_MerkleRootOfNoneOneTwoAndMany : ([[], [], []] : List Bytes) ≠ [] := by decide

theorem witness_InPlaceSequencingComputesTheRoot :
    ([[], [], []] : List Bytes) ≠ [] ∧
    ([[], [], []] : List Bytes).length ≤ (List.replicate 3 zeroDigest).length := by decide

theorem witness_NopOnlyCompletes : (running [] 0 0 0 .nop).Accepted := running_accepted ..

theorem witness_InitLoadsTheInitialHash : (running [] 0 0 0 .init).Accepted := running_accepted ..

/-- The last block that fits, and the first that does not. -/
theorem witness_CompressComputesOrReportsSrcRange :
    (running [] 4032 0 0 .compress).Accepted ∧
    (running [] 4032 0 0 .compress).src + 64 ≤ (running [] 4032 0 0 .compress).params.memBytes ∧
    (running [] 4032 0 0 .compress).tainted = false ∧
    (running [] 4033 0 0 .compress).Accepted ∧
    (running [] 4033 0 0 .compress).params.memBytes < (running [] 4033 0 0 .compress).src + 64 :=
  ⟨running_accepted .., by decide, by decide, running_accepted .., by decide⟩

/-- An empty message out of the memory, a message and an output that end with it. -/
theorem witness_HashCommandsComputeSha256 :
    ((Instr.hash, OutFmt.plain) ∈
      [(Instr.hash, OutFmt.plain), (Instr.hashBin, OutFmt.bin), (Instr.hashHex, OutFmt.hex)] ∧
      (running [] 0xffffffff 0 0xffffffff .hash).Accepted ∧
      (running [] 0xffffffff 0 0xffffffff .hash).tainted = false ∧
      (running [] 0xffffffff 0 0xffffffff .hash).len = 0) ∧
    ((Instr.hashHex, OutFmt.hex) ∈
      [(Instr.hash, OutFmt.plain), (Instr.hashBin, OutFmt.bin), (Instr.hashHex, OutFmt.hex)] ∧
      (running abc 0xffd 3 0xfc0 .hashHex).Accepted ∧
      (running abc 0xffd 3 0xfc0 .hashHex).tainted = false ∧
      (running abc 0xffd 3 0xfc0 .hashHex).src + (running abc 0xffd 3 0xfc0 .hashHex).len ≤ 4096 ∧
      (running abc 0xffd 3 0xfc0 .hashHex).dst + outSize .hex ≤ 4096) :=
  ⟨⟨by decide, running_accepted .., by decide, by decide⟩,
    ⟨by decide, running_accepted .., by decide, by decide, by decide⟩⟩

theorem witness_HashCommandsReportRangeErrorsInOrder :
    ((running [] 0xffe 3 0 .hashBin).len ≠ 0 ∧
      4096 < (running [] 0xffe 3 0 .hashBin).src + (running [] 0xffe 3 0 .hashBin).len) ∧
    ((running abc 0x100 3 0xfe1 .hashBin).src + (running abc 0x100 3 0xfe1 .hashBin).len ≤ 4096 ∧
      OutFmt.bin ≠ .plain ∧ 4096 < (running abc 0x100 3 0xfe1 .hashBin).dst + outSize .bin) := by
  decide

theorem witness_StoreCommandsWriteTheHashState :
    ((running [] 0 0 0xfe0 .storeBin).dst + outSize .bin ≤ 4096 ∧
      (running [] 0 0 0xfe0 .storeBin).tainted = false) ∧
    4096 < (running [] 0 0 0xfe1 .storeBin).dst + outSize .bin := by decide

/-- As many leaves as the layer buffer holds. -/
theorem witness_MerkleCommandsComputeTheRoot :
    (Instr.merkleBin, OutFmt.bin) ∈
      [(Instr.merkle, OutFmt.plain), (Instr.merkleBin, OutFmt.bin), (Instr.merkleHex, OutFmt.hex)] ∧
    (running (emptyLeaves 16) 0x400 16 0xfe0 .merkleBin).Accepted ∧
    (running (emptyLeaves 16) 0x400 16 0xfe0 .merkleBin).tainted = false ∧
    (running (emptyLeaves 16) 0x400 16 0xfe0 .merkleBin).len ≠ 0 ∧
    (running (emptyLeaves 16) 0x400 16 0xfe0 .merkleBin).len ≤ 16 ∧
    (running (emptyLeaves 16) 0x400 16 0xfe0 .merkleBin).src +
      8 * (running (emptyLeaves 16) 0x400 16 0xfe0 .merkleBin).len ≤ 4096 ∧
    (running (emptyLeaves 16) 0x400 16 0xfe0 .merkleBin).dst + outSize .bin ≤ 4096 ∧
    (∀ k, k < 16 → (running (emptyLeaves 16) 0x400 16 0xfe0 .merkleBin).leafLen k = 0) :=
  ⟨by decide, running_accepted .., by decide, by decide, by decide, by decide, by decide,
    by decide +kernel⟩

theorem witness_MerkleCommandsReportErrorsInOrder :
    (running [] 0 0 0 .merkle).len = 0 ∧
    ((running [] 0 17 0 .merkle).len ≠ 0 ∧ 16 < (running [] 0 17 0 .merkle).len) ∧
    ((running [] 0xfa0 13 0 .merkle).len ≤ 16 ∧
      4096 < (running [] 0xfa0 13 0 .merkle).src + 8 * (running [] 0xfa0 13 0 .merkle).len) ∧
    ((running [] 0x400 3 0xfe0 .merkleHex).src + 8 * (running [] 0x400 3 0xfe0 .merkleHex).len ≤ 4096 ∧
      4096 < (running [] 0x400 3 0xfe0 .merkleHex).dst + outSize .hex) ∧
    (1 < (running badLeaves 0x400 3 0x500 .merkleBin).len ∧
      (running badLeaves 0x400 3 0x500 .merkleBin).leafLen 1 ≠ 0 ∧
      4096 < (running badLeaves 0x400 3 0x500 .merkleBin).leafAddr 1 +
        (running badLeaves 0x400 3 0x500 .merkleBin).leafLen 1 ∧
      (running badLeaves 0x400 3 0x500 .merkleBin).leafAddr 0 +
        (running badLeaves 0x400 3 0x500 .merkleBin).leafLen 0 ≤ 4096) := by decide +kernel

theorem witness_IllegalWordCompletesInError :
    State.reset.status.busy = false ∧ (∀ i ∈ Instr.all, (5 : Word) ≠ encode i) := by decide

theorem witness_ErrorsAreAtomic :
    (running [] 4033 0 0 .compress).status.err = false ∧
    (running [] 4033 0 0 .compress).hazard = false ∧
    ∃ t, exec .compress (running [] 4033 0 0 .compress) = .next t ∧ t.status.err = true ∧
      t.status.errCode ≠ .leafRange :=
  ⟨by decide, by decide, _, rfl, by decide⟩

theorem witness_FrameOfCommandsThatStoreNothing :
    Instr.merkle ∈ [Instr.nop, Instr.init, Instr.compress, Instr.hash, Instr.merkle] ∧
    ∃ t, exec .merkle (running (emptyLeaves 1) 0x400 1 0 .merkle) = .next t := ⟨by decide, _, rfl⟩

theorem witness_FrameOfStoringCommands :
    Instr.storeHex ∈ [Instr.hashBin, Instr.hashHex, Instr.merkleBin, Instr.merkleHex, Instr.storeBin,
      Instr.storeHex] ∧
    ∃ t, exec .storeHex (running [] 0 0 0xfc0 .storeHex) = .next t := ⟨by decide, _, rfl⟩

theorem witness_EngineWritesOnlyItsOutputInsideTheMemory :
    (∃ t, exec .storeBin (running [] 0 0 0xfe0 .storeBin) = .next t ∧
      Memory.get? t.mem 0xfff ≠ Memory.get? (running [] 0 0 0xfe0 .storeBin).mem 0xfff) ∧
    ((running [] 4032 0 0 .compress).check .compress = none ∧
      covers ((running [] 4032 0 0 .compress).readSet .compress) 4095 = true) ∧
    covers ((running badLeaves 0x400 3 0x500 .merkle).merkleReads .plain) 0x40f = true :=
  ⟨⟨_, rfl, by decide +kernel⟩, by decide, by decide +kernel⟩

theorem witness_EngineReadsTheMemoryOfAcceptance :
    (loaded abc 0x100 3 0).status.busy = false ∧
    (List.range 3).map (fun k => Memory.get? (loaded abc 0x100 3 0).mem (0x100 + k)) =
      ([0x61, 0x62, 0x63] : Bytes).map some ∧
    (running badLeaves 0x400 3 0x500 .merkle).engineRead (0x400 + 8 * 2) 4 = [0xff, 0xff, 0xff, 0xff] ∧
    (running badLeaves 0x400 3 0x500 .merkle).engineRead (0x400 + 8 * 2 + 4) 4 = [0, 0, 0, 2] ∧
    2 < (running badLeaves 0x400 3 0x500 .merkle).len := by decide +kernel

/-- Two states that differ in `H`, CTRL and the current buffer memory. -/
theorem witness_HashAndMerkleDependOnLatchesOnly :
    (running abc 0x100 3 0x200 .hashBin).check .hashBin = none ∧
    (running abc 0x100 3 0x200 .hashBin).tainted = false ∧
    (running abc 0x100 3 0x200 .hashBin).latch =
      State.latch { running abc 0x100 3 0x200 .hashBin with h := zeroDigest, mem := [] } ∧
    (running abc 0x100 3 0x200 .hashBin).h ≠
      State.h { running abc 0x100 3 0x200 .hashBin with h := zeroDigest, mem := [] } := by
  decide +kernel

theorem witness_CompressOverPaddedBlocksBuildsSha256 :
    (running (abcBlock 0) 0 0 0 .compress).tainted = false ∧
    (running (abcBlock 0) 0 0 0 .compress).src + 64 ≤ 4096 ∧ 0 < nblocks 3 ∧
    (running (abcBlock 0) 0 0 0 .compress).h = chain [0x61, 0x62, 0x63] 0 ∧
    (List.range 64).map (Memory.get? (running (abcBlock 0) 0 0 0 .compress).latch.mem) =
      (pad [0x61, 0x62, 0x63]).map some := by decide +kernel

/-- A table at 0x400 whose first entry is (never written, 0) and whose second is (4096, 1). -/
def partTable : List Host.Cell := bytesAt 0x404 [0, 0, 0, 0, 0, 0, 0x10, 0, 0, 0, 0, 1]

/-- X-4: four bytes never written; a table whose second entry is bad and whose first has such bytes; an
error other than LEAF_RANGE. -/
theorem witness_ReadingUnwrittenBytesSetsHazard :
    ((running [] 0 4 0 .hash).check .hash = none ∧
      covers ((running [] 0 4 0 .hash).readSet .hash) 3 = true ∧
      Memory.get? (running [] 0 4 0 .hash).latch.mem 3 = none ∧
      ∃ t, exec .hash (running [] 0 4 0 .hash) = .next t) ∧
    ((running partTable 0x400 2 0 .merkle).tableCheck .plain = none ∧
      (running partTable 0x400 2 0 .merkle).leafLen 0 = 0 ∧
      (running partTable 0x400 2 0 .merkle).leafAddr 1 +
        (running partTable 0x400 2 0 .merkle).leafLen 1 = 4097 ∧
      Memory.get? (running partTable 0x400 2 0 .merkle).latch.mem 0x403 = none ∧
      ∃ t, exec .merkle (running partTable 0x400 2 0 .merkle) = .next t) ∧
    ((running [] 4033 0 0 .compress).check .compress = some (.srcRange, 0) ∧
      ErrorCode.srcRange ≠ .leafRange ∧
      ∃ t, exec .compress (running [] 4033 0 0 .compress) = .next t) :=
  ⟨⟨by decide, by decide, rfl, _, rfl⟩,
    ⟨by decide, by decide +kernel, by decide +kernel, by decide, _, rfl⟩, by decide, by decide, _, rfl⟩

/-- The first bad leaf of that table is the second, whatever the never-written bytes hold. -/
theorem witness_firstBadLeaf_of_partTable :
    (running partTable 0x400 2 0 .merkle).firstBadLeaf = some 1 := by
  have h0 : (running partTable 0x400 2 0 .merkle).leafLen 0 = 0 := by decide +kernel
  have h1 : (running partTable 0x400 2 0 .merkle).leafLen 1 = 1 := by decide +kernel
  have h2 : (running partTable 0x400 2 0 .merkle).leafAddr 1 = 4096 := by decide +kernel
  have hp : (running partTable 0x400 2 0 .merkle).params.memBytes = 4096 := by decide
  refine (firstBadLeaf_eq_some_iff _ 1).2
    ⟨by decide, by simp only [inRange, h1, h2, hp]; decide, fun j hj => ?_⟩
  obtain rfl : j = 0 := by omega
  simp only [inRange, h0]
  rfl

/-- X-4 for the engine's read, X-5 for the host's write. -/
theorem witness_HazardIsSetByTheTwoRulesAndNeverCleared :
    (∃ t, step (running [] 0 4 0 .hash) = .next t ∧ t.hazard = true) ∧
    (∃ t, step { running abc 0x100 3 0 .hash with agenda := [.host (.memWrite 0x101 0)] } = .next t ∧
      t.hazard = true) ∧
    (running [] 0 4 0 .hash).hazard = false ∧
    ∃ t, step { State.reset with hazard := true } = .next t :=
  ⟨⟨_, rfl, by decide⟩, ⟨_, rfl, by decide⟩, by decide, _, rfl⟩

/-- X-5 and X-6. -/
theorem witness_WriteIntoRunningCommandSetsHazard :
    (running abc 0x100 3 0x200 .hashHex).inReadSet 0x102 = true ∧
    (running abc 0x100 3 0x200 .hashHex).inWriteSet 0x200 = true ∧ 0x23f < 4096 := by decide

/-- X-6 at the last byte of the output, and the output of a command that will fail a check. -/
theorem witness_UnfinishedResultsReadAsDraws :
    ((running abc 0x100 3 0x200 .hashHex).status.busy = true ∧
      decode (running abc 0x100 3 0x200 .hashHex).latch.cmd = .ok .hashHex ∧
      (running abc 0x100 3 0x200 .hashHex).dst ≤ 0x23f ∧
      0x23f < (running abc 0x100 3 0x200 .hashHex).dst + outSize .hex) ∧
    ((running abc 0xffe 3 0x100 .hashHex).check .hashHex ≠ none ∧
      decode (running abc 0xffe 3 0x100 .hashHex).latch.cmd = .ok .hashHex ∧
      (running abc 0xffe 3 0x100 .hashHex).dst ≤ 0x102 ∧
      0x102 < (running abc 0xffe 3 0x100 .hashHex).dst + outSize .hex) := by decide

/-- X-5: byte 0x103; X-6: bytes 0x1FF and 0x240; a write to the output of a command that will fail a
check. -/
theorem witness_AccessesOutsideTheSetsAreExact :
    (∀ i ∈ Instr.all, decode (running abc 0x100 3 0x200 .hashHex).latch.cmd = .ok i →
      0x1ff < (running abc 0x100 3 0x200 .hashHex).dst ∧
      (running abc 0x100 3 0x200 .hashHex).dst + outSize (outFmtOf i) ≤ 0x240) ∧
    Memory.get? (running abc 0x100 3 0x200 .hashHex).mem 0x102 = some 0x63 ∧
    Memory.get? (running abc 0x100 3 0x200 .hashHex).mem 0x1ff = none ∧
    (running abc 0x100 3 0x200 .hashHex).inReadSet 0x103 = false ∧
    (running abc 0x100 3 0x200 .hashHex).inWriteSet 0x103 = false ∧
    (running abc 0xffe 3 0x100 .hashHex).inReadSet 0x102 = false ∧
    (running abc 0xffe 3 0x100 .hashHex).inWriteSet 0x102 = false := by decide

theorem witness_OutsideWriteCommutesWithCompletion :
    Memory.wf (running abc 0x100 3 0x200 .hashHex).mem = true ∧
    (running abc 0x100 3 0x200 .hashHex).status.busy = true ∧
    decode (running abc 0x100 3 0x200 .hashHex).latch.cmd = .ok .hashHex ∧ 0x103 < 4096 ∧
    (running abc 0x100 3 0x200 .hashHex).inReadSet 0x103 = false ∧
    (running abc 0x100 3 0x200 .hashHex).inWriteSet 0x103 = false := by decide

theorem witness_OperandWritesCommuteWithCompletion :
    RegName.ctrl ∈ [RegName.srcAddr, RegName.len, RegName.dstAddr, RegName.ctrl] := by decide

theorem witness_CommandWritesAreAcceptedWhenIdle :
    (State.reset.status.busy = false ∧
      State.agenda { State.reset with agenda := [.host (.regWrite 0x00C 32 1)] } =
        .host (.regWrite (State.reset.params.regBase + 0x00C) 32 1) :: []) ∧
    ((running [] 0 0 0 .nop).status.busy = true ∧
      State.agenda { running [] 0 0 0 .nop with agenda := [.host (.regWrite 0x00C 32 1)] } =
        .host (.regWrite ((running [] 0 0 0 .nop).params.regBase + 0x00C) 32 1) :: []) := by decide

theorem witness_BusyWritesAreRefused :
    (running [] 0 0 0 .nop).status.busy = true ∧
    ∃ i : Fin 8, 0x05C = 0x040 + 4 * i.val := ⟨by decide, 7, rfl⟩

theorem witness_IdleHashStateWritesAndReads :
    State.reset.status.busy = false ∧ (0 : Fin 8) ≠ 7 := by decide

theorem witness_RegisterMapReads :
    (0x008, State.reset.status.word) ∈
      [(0x000, (0x534D4501 : Word)), (0x008, State.reset.status.word)] := by decide

theorem witness_StatusIsWrittenOneToClear :
    BitVec.getLsbD (0xfffffff1 : Word) 1 = false ∧ BitVec.getLsbD (0xfffffff1 : Word) 2 = false ∧
    BitVec.getLsbD (0xfffffff1 : Word) 3 = false := by decide

/-- The first and the last of each reserved stretch. -/
theorem witness_ReadOnlyAndReservedOffsets :
    0x024 ∈ [0x000, 0x01C, 0x020, 0x024] ∧
    (0x028 % 4 = 0 ∧ 0x028 ≤ 0x028) ∧ (0x03C % 4 = 0 ∧ 0x03C ≤ 0x03C) ∧
    (0x060 % 4 = 0 ∧ 0x060 ≤ 0x060) ∧ (0x0FC % 4 = 0 ∧ 0x0FC ≤ 0x0FC) := by decide

theorem witness_HostStepsAreRefusedExactlyOutsideTheInterface :
    HostAction.wf State.reset.params (.regRead 0x0FC 32) = true ∧
    HostAction.wf State.reset.params (.regRead 0x100 32) = false ∧
    HostAction.wf State.reset.params (.memWrite 4095 0) = true ∧
    HostAction.wf State.reset.params (.memWrite 4096 0) = false := by decide

theorem witness_InterruptFollowsDone :
    ((running [] 0 0 0 .nop).status.busy = true ∧
      ∃ t, engineStep (running [] 0 0 0 .nop) = .next t) ∧
    State.reset.status.busy = false ∧ BitVec.getLsbD (2 : Word) 1 = true ∧
    BitVec.getLsbD (0 : Word) 0 = false := ⟨⟨by decide, _, rfl⟩, by decide⟩

theorem witness_BothOrdersOfCompletionAndCommandWrite :
    (running [] 0 0 0 .nop).status.busy = true ∧
    ∃ t, engineStep (running [] 0 0 0 .nop) = .next t := ⟨by decide, _, rfl⟩

theorem witness_ResetRestoresTheRegisters : State.reset.status.busy = false := by decide

/-- X-2 and X-3. -/
theorem witness_ResetWhileBusyDrawsTheOutputBytes :
    ((running abc 0x100 3 0x200 .hashHex).status.busy = true ∧
      decode (running abc 0x100 3 0x200 .hashHex).latch.cmd = .ok .hashHex ∧
      (running abc 0x100 3 0x200 .hashHex).check .hashHex = none ∧ 63 < outSize .hex) ∧
    ((running [] 0 0 0 .merkleBin).status.busy = true ∧
      ∀ i ∈ Instr.all, decode (running [] 0 0 0 .merkleBin).latch.cmd = .ok i →
        (running [] 0 0 0 .merkleBin).check i ≠ none) := by decide

/-- The smallest and the largest legal parameters. -/
theorem witness_PowerOnMeetsTheInvariant :
    Params.wf { memBytes := 64, maxLeaves := 1, regBase := 0 } = true ∧
    Params.wf { memBytes := 2 ^ 31, maxLeaves := 2 ^ 31, regBase := 0xffffff00 } = true := by decide

theorem reset_inv : State.reset.Inv :=
  ⟨by decide, by decide, by decide, by decide, by decide, by decide⟩

/-- A running command whose step is its completion. -/
theorem witness_EveryStepKeepsTheInvariant :
    (running abc 0x100 3 0x200 .hashHex).Inv ∧
    ∃ t, step (running abc 0x100 3 0x200 .hashHex) = .next t :=
  ⟨⟨by decide, by decide, by decide, by decide, by decide, by decide⟩, _, rfl⟩

theorem witness_EveryRunEndsIdle :
    ∀ a, Event.host a ∈ programEvents Params.ofExamples [.wr .len 0, .command .hash] →
      a.wf Params.ofExamples = true := by
  intro a ha
  simp only [programEvents, stmtEvents, wrEvent, List.flatMap_cons, List.flatMap_nil,
    List.append_nil, List.cons_append, List.nil_append, List.mem_cons, List.not_mem_nil, or_false,
    Event.host.injEq] at ha
  rcases ha with rfl | rfl <;> decide

/-- One step for each of the three ways `H` can change. -/
theorem witness_HashStateChangesOnlyByTheRules :
    (∃ t, step { State.reset with h := zeroDigest, agenda := [.host .reset] } = .next t ∧
      t.h ≠ zeroDigest) ∧
    (∃ t, step { State.reset with agenda := [.host (.regWrite 0x040 32 0)] } = .next t ∧
      t.h ≠ State.reset.h) ∧
    (∃ t, step { running [] 0 0 0 .init with h := zeroDigest } = .next t ∧ t.h ≠ zeroDigest) ∧
    (running [] 0 0 0 .init).tainted = false :=
  ⟨⟨_, rfl, by decide⟩, ⟨_, rfl, by decide⟩, ⟨_, rfl, by decide⟩, by decide⟩

theorem witness_StepsKeepTheParameters : ∃ t, step State.reset = .next t := ⟨_, rfl⟩

/-- The state the host runs a word from: the very next step is the command's. -/
theorem test_withFetchWord_runs_the_word :
    decodeTableWord 32 0x15 = some .storeBin ∧
    ∃ t, step (State.reset.withFetchWord 32 0x15) = .next t ∧ t.status.word = 0x2 ∧
      Memory.get? t.mem 4 = some 0xbb := ⟨by decide, _, rfl, by decide, by decide +kernel⟩

end Sys2Proof.Machine
end

section
/-! PROOFS for 00_scope.md: what a step does by the head of the agenda, what the engine's turn does by
BUSY and the decoder (O5), and what every step leaves to the host (O60). -/

namespace Sys2Proof.Machine

/-! ### A step by the head of the agenda -/

theorem State.afterTake_of_agenda_cons {s : State} {e : Event} {rest : List Event}
    (h : s.agenda = e :: rest) : s.afterTake = { s with agenda := rest } := by
  rw [State.afterTake, h, List.tail_cons]

theorem step_of_agenda_nil {s : State} (h : s.agenda = []) : step s = engineStep s := by
  simp only [step, h]

theorem step_of_agenda_engine {s : State} {rest : List Event} (h : s.agenda = .engine :: rest) :
    step s = engineStep { s with agenda := rest } := by
  simp only [step, h, State.afterTake_of_agenda_cons h]

theorem step_of_agenda_host {s : State} {a : HostAction} {rest : List Event}
    (h : s.agenda = .host a :: rest) : step s = hostStep a { s with agenda := rest } := by
  simp only [step, h, State.afterTake_of_agenda_cons h]

/-! ### The engine's turn by BUSY and the decoder -/

theorem engineStep_of_idle {s : State} (hb : s.status.busy = false) :
    engineStep s = .next s := by
  simp [engineStep, hb]

theorem engineStep_of_decode_ok {s : State} {i : Instr} (hb : s.status.busy = true)
    (hd : decode s.latch.cmd = .ok i) : engineStep s = exec i s := by
  simp [engineStep, hb, hd]

theorem engineStep_of_decode_error {s : State} {e : DecodeError} (hb : s.status.busy = true)
    (hd : decode s.latch.cmd = .error e) : engineStep s = .next (s.raiseError .illegalCmd 0) := by
  simp [engineStep, hb, hd]

/-! ### What completions leave to the host -/

theorem State.raiseError_hostSideKept (s : State) (code : ErrorCode) (info : Word) :
    s.HostSideKept (s.raiseError code info) :=
  ⟨rfl, rfl, rfl, rfl, rfl, rfl, rfl, rfl, rfl⟩

/-- `raiseError` is a completion in error in the sense of 60_exceptions.md R192, R193. -/
theorem State.raiseError_failsWith (s : State) (code : ErrorCode) (info : Word) :
    s.FailsWith (s.raiseError code info) code info :=
  ⟨rfl, rfl, rfl, rfl, rfl, rfl, s.raiseError_hostSideKept code info⟩

theorem FailedFrom.hostSideKept {s t : State} {check : Option Failure}
    (h : FailedFrom s t check) : s.HostSideKept t := by
  obtain ⟨e, rs, -, rfl⟩ := h
  exact ⟨rfl, rfl, rfl, rfl, rfl, rfl, rfl, rfl, rfl⟩

theorem DeliveredFrom.hostSideKept {s t : State} {fmt : OutFmt}
    (h : DeliveredFrom s t fmt) : s.HostSideKept t := by
  obtain ⟨d, w, tr, n, rs, rfl, -⟩ := h
  exact ⟨rfl, rfl, rfl, rfl, rfl, rfl, rfl, rfl, rfl⟩

/-- No command writes what is the host's, whether it completes in error or not. -/
theorem exec_hostSideKept {i : Instr} {s t : State} (h : exec i s = .next t) :
    s.HostSideKept t := by
  obtain hf | ⟨-, rfl⟩ | ⟨-, rfl⟩ | ⟨-, -, -, hd⟩ := exec_cases i s t h
  · exact hf.hostSideKept
  · exact ⟨rfl, rfl, rfl, rfl, rfl, rfl, rfl, rfl, rfl⟩
  · exact ⟨rfl, rfl, rfl, rfl, rfl, rfl, rfl, rfl, rfl⟩
  · exact hd.hostSideKept

theorem engineStep_hostSideKept {s t : State} (h : engineStep s = .next t) :
    s.HostSideKept t := by
  obtain ⟨-, rfl⟩ | ⟨-, i, -, he⟩ | ⟨-, -, rfl⟩ := engineStep_cases s t h
  · exact ⟨rfl, rfl, rfl, rfl, rfl, rfl, rfl, rfl, rfl⟩
  · exact exec_hostSideKept he
  · exact s.raiseError_hostSideKept .illegalCmd 0

/-! ### What host steps leave as it was -/

theorem writeReg_keeps_params_agenda (s : State) (r : RegName) (v : Word) :
    (s.writeReg r v).params = s.params ∧ (s.writeReg r v).agenda = s.agenda := by
  obtain h | ⟨g, h, -⟩ | h | ⟨-, h⟩ | ⟨-, -, h⟩ | ⟨-, i, -, h⟩ := writeReg_cases s r v
  all_goals rw [h]; exact ⟨rfl, rfl⟩

theorem writeOffset_keeps_params_agenda (s : State) (off : Nat) (v : Word) :
    (s.writeOffset off v).params = s.params ∧ (s.writeOffset off v).agenda = s.agenda := by
  unfold State.writeOffset
  split
  · exact writeReg_keeps_params_agenda s _ v
  · exact ⟨rfl, rfl⟩

theorem hostStep_keeps_params_agenda {a : HostAction} {s t : State}
    (h : hostStep a s = .next t) : t.params = s.params ∧ t.agenda = s.agenda := by
  obtain ⟨v, rfl⟩ | ⟨v, rfl⟩ | ⟨off, _, v, -, -, -, -, rfl⟩ | ⟨b, v, -, -, rfl⟩ | ⟨-, rfl⟩ :=
    hostStep_cases a s t h
  · exact ⟨s.answerWord_params v, s.answerWord_agenda v⟩
  · exact ⟨s.answerByte_params v, s.answerByte_agenda v⟩
  · exact writeOffset_keeps_params_agenda s off v
  · exact ⟨s.writeByte_params b v, s.writeByte_agenda b v⟩
  · exact ⟨s.hostReset_params, s.hostReset_agenda⟩

/-! ### The obligations -/

/-- Settles O5: the agenda's head picks the turn, and BUSY and the decoder pick what the engine does
with it; a turn taken from the agenda changes neither BUSY nor the latched word. -/
theorem stepRunsTheDecodedCommand : Obligations.StepRunsTheDecodedCommand := by
  intro s
  refine ⟨fun a rest => step_of_agenda_host, step_of_agenda_nil,
    fun rest => step_of_agenda_engine, fun i hb hd => ⟨?engine, ?nil, ?turn⟩,
    fun e hb hd => ?illegal, engineStep_of_idle⟩
  case engine => exact engineStep_of_decode_ok hb hd
  case nil =>
    intro ha
    rw [step_of_agenda_nil ha, engineStep_of_decode_ok hb hd]
  case turn =>
    intro rest ha
    rw [step_of_agenda_engine ha]
    exact engineStep_of_decode_ok hb hd
  case illegal =>
    exact ⟨_, engineStep_of_decode_error hb hd, s.raiseError_failsWith .illegalCmd 0,
      s.raiseError_hazard .illegalCmd 0⟩

/-- Settles O60: `step` takes the agenda's head off and then runs the engine's or the host's turn, and
neither touches the parameters or what is left of the agenda. -/
theorem stepsKeepTheParameters : Obligations.StepsKeepTheParameters := by
  intro s t h
  obtain ⟨-, he⟩ | ⟨a, rest, -, hh⟩ := step_cases s t h
  · have hk := engineStep_hostSideKept he
    exact ⟨hk.params, hk.agenda⟩
  · exact hostStep_keeps_params_agenda hh

end Sys2Proof.Machine
end

section
/-! PROOFS for 10_state.md: the invariant (O56, O57), the schedule window (O11), HAZARD (O36), the register
map and what its reads and writes do (O44 to O50), IRQ (O51), power-on (O53) and `H` (O59). -/

namespace Sys2Proof.Machine

/-! ### The invariant under the shared operations -/

/-- A failure is recorded with a code, and with an ERRINFO other than 0 only as LEAF_RANGE (R24, R29). -/
def Failure.Reportable (e : Failure) : Prop :=
  e.1 ≠ .noError ∧ (e.2 ≠ 0 → e.1 = .leafRange)

theorem Failure.reportable_of_info_zero {code : ErrorCode} (h : code ≠ .noError) :
    Failure.Reportable (code, 0) :=
  ⟨h, fun hne => absurd rfl hne⟩

theorem compressCheck_reportable {s : State} {e : Failure} (h : s.compressCheck = some e) :
    Failure.Reportable e := by
  obtain ⟨-, rfl⟩ := (compressCheck_eq_some_iff s e).1 h
  exact Failure.reportable_of_info_zero (by decide)

theorem hashCheck_reportable {s : State} {fmt : OutFmt} {e : Failure}
    (h : s.hashCheck fmt = some e) : Failure.Reportable e := by
  unfold State.hashCheck at h
  split at h
  · cases h; exact Failure.reportable_of_info_zero (by decide)
  split at h
  · cases h; exact Failure.reportable_of_info_zero (by decide)
  · cases h

theorem storeCheck_reportable {s : State} {fmt : OutFmt} {e : Failure}
    (h : s.storeCheck fmt = some e) : Failure.Reportable e := by
  unfold State.storeCheck at h
  split at h
  · cases h; exact Failure.reportable_of_info_zero (by decide)
  · cases h

theorem tableCheck_reportable {s : State} {fmt : OutFmt} {e : Failure}
    (h : s.tableCheck fmt = some e) : Failure.Reportable e := by
  unfold State.tableCheck at h
  split at h
  · cases h; exact Failure.reportable_of_info_zero (by decide)
  split at h
  · cases h; exact Failure.reportable_of_info_zero (by decide)
  split at h
  · cases h; exact Failure.reportable_of_info_zero (by decide)
  split at h
  · cases h; exact Failure.reportable_of_info_zero (by decide)
  · cases h

theorem merkleCheck_reportable {s : State} {fmt : OutFmt} {e : Failure}
    (h : s.merkleCheck fmt = some e) : Failure.Reportable e := by
  unfold State.merkleCheck at h
  split at h
  · next e' ht =>
    cases h
    exact tableCheck_reportable ht
  · obtain ⟨i, -, rfl⟩ := Option.map_eq_some_iff.1 h
    exact ⟨nofun, fun _ => rfl⟩

theorem check_reportable {s : State} {i : Instr} {e : Failure} (h : s.check i = some e) :
    Failure.Reportable e := by
  cases i
  case nop => cases h
  case init => cases h
  case compress => exact compressCheck_reportable h
  case hash => exact hashCheck_reportable h
  case hashBin => exact hashCheck_reportable h
  case hashHex => exact hashCheck_reportable h
  case merkle => exact merkleCheck_reportable h
  case merkleBin => exact merkleCheck_reportable h
  case merkleHex => exact merkleCheck_reportable h
  case storeBin => exact storeCheck_reportable h
  case storeHex => exact storeCheck_reportable h

@[simp] theorem freeTree_layer_length (n leaves : Nat) :
    (freeTree n leaves).layer.length = leaves := by simp [freeTree]

/-- Output bytes of a command that has passed its checks leave the memory in canonical form and
in its bounds. -/
theorem writeBytes_output_ok {s : State} {i : Instr} (bs : Bytes) (hs : s.Inv)
    (hc : s.check i = none) (hlen : bs.length = outSize (outFmtOf i)) :
    Memory.wf (Memory.writeBytes s.mem s.dst bs) = true ∧
    Memory.within s.params.memBytes (Memory.writeBytes s.mem s.dst bs) = true := by
  obtain ⟨hwf, hin, -, -⟩ := hs.memory
  refine ⟨Memory.wf_writeBytes _ _ _ hwf, Memory.within_writeBytes _ _ _ _ ?_ hin⟩
  obtain h0 | hle := check_none_output s i hc
  · exact .inl (List.length_eq_zero_iff.1 (hlen.trans h0))
  · exact .inr (by rwa [hlen])

namespace State.Inv

theorem afterTake {s : State} (hs : s.Inv) : s.afterTake.Inv :=
  ⟨hs.params, hs.errors, hs.quiet, hs.memory, hs.layer, hs.taint⟩

theorem noteReads {s : State} (hs : s.Inv) (rs : List AddrRange) : (s.noteReads rs).Inv :=
  ⟨hs.params, hs.errors, hs.quiet, hs.memory, hs.layer, fun ht => by simp [hs.taint ht]⟩

theorem raiseError {s : State} (hs : s.Inv) {e : Failure} (he : Failure.Reportable e) :
    (s.raiseError e.1 e.2).Inv where
  params := hs.params
  errors := ⟨by simpa using he.1, he.2⟩
  quiet hb := nomatch hb
  memory := ⟨hs.memory.1, hs.memory.2.1, rfl, rfl⟩
  layer := hs.layer
  taint ht := nomatch ht

theorem complete {s : State} (hs : s.Inv) : s.complete.Inv where
  params := hs.params
  errors := hs.errors
  quiet hb := nomatch hb
  memory := ⟨hs.memory.1, hs.memory.2.1, rfl, rfl⟩
  layer := hs.layer
  taint ht := nomatch ht

theorem failedFrom {s t : State} {i : Instr} (hs : s.Inv) (h : FailedFrom s t (s.check i)) :
    t.Inv := by
  obtain ⟨e, rs, hc, rfl⟩ := h
  exact (hs.noteReads rs).raiseError (check_reportable hc)

theorem deliveredFrom {s t : State} {i : Instr} (hs : s.Inv) (hc : s.check i = none)
    (h : DeliveredFrom s t (outFmtOf i)) : t.Inv := by
  obtain ⟨d, w, tr, n, rs, rfl, htr⟩ := h
  refine ⟨hs.params, hs.errors, fun hb => (nomatch hb), ?memory, ?layer, fun ht => (nomatch ht)⟩
  case memory =>
    obtain ⟨hwf, hin⟩ := writeBytes_output_ok _ hs hc (settledOutput_length _ (outFmtOf i) d)
    exact ⟨hwf, hin, rfl, rfl⟩
  case layer =>
    obtain rfl | rfl := htr
    · exact hs.layer
    · exact freeTree_layer_length ..

theorem of_exec {i : Instr} {s t : State} (hs : s.Inv) (h : exec i s = .next t) : t.Inv := by
  obtain hf | ⟨-, rfl⟩ | ⟨-, rfl⟩ | ⟨hc, -, -, hd⟩ := exec_cases i s t h
  · exact hs.failedFrom hf
  · exact hs.complete
  · exact State.Inv.complete ⟨hs.params, hs.errors, hs.quiet, hs.memory, hs.layer, hs.taint⟩
  · exact hs.deliveredFrom hc hd

theorem of_engineStep {s t : State} (hs : s.Inv) (h : engineStep s = .next t) : t.Inv := by
  obtain ⟨-, rfl⟩ | ⟨-, i, -, he⟩ | ⟨-, -, rfl⟩ := engineStep_cases s t h
  · exact hs
  · exact hs.of_exec he
  · exact hs.raiseError (Failure.reportable_of_info_zero (code := .illegalCmd) (by decide))

/-! ### The invariant under the host's steps -/

theorem answerWord {s : State} (hs : s.Inv) (v : Option Word) : (s.answerWord v).Inv := by
  cases v <;> exact ⟨hs.params, hs.errors, hs.quiet, hs.memory, hs.layer, hs.taint⟩

theorem answerByte {s : State} (hs : s.Inv) (v : Option Byte) : (s.answerByte v).Inv := by
  cases v <;> exact ⟨hs.params, hs.errors, hs.quiet, hs.memory, hs.layer, hs.taint⟩

theorem accept {s : State} (hs : s.Inv) (c : Word) : (s.accept c).Inv where
  params := hs.params
  errors := by simp [State.errorsAgree]
  quiet := by simp [State.busyQuiet]
  memory := ⟨hs.memory.1, hs.memory.2.1, hs.memory.1, hs.memory.2.1⟩
  layer := hs.layer
  taint ht := nomatch ht

theorem reject {s : State} (hs : s.Inv) : s.reject.Inv :=
  ⟨hs.params, hs.errors, hs.quiet, hs.memory, hs.layer, hs.taint⟩

/-- Writing 1 to ERR clears ERR, ERRCODE and ERRINFO together; otherwise all three stay. -/
theorem acknowledge {s : State} (hs : s.Inv) (v : Word) : (s.acknowledge v).Inv where
  params := hs.params
  errors := by
    simp only [State.errorsAgree, State.acknowledge_status, State.acknowledge_regs,
      Status.written_err, Status.written_errCode]
    cases v.getLsbD 2
    · simpa [State.errorsAgree] using hs.errors
    · simp
  quiet hb := by simp [hs.quiet hb]
  memory := hs.memory
  layer := hs.layer
  taint := hs.taint

theorem writeReg {s : State} (hs : s.Inv) (r : RegName) (v : Word) : (s.writeReg r v).Inv := by
  obtain h | ⟨g, h, hg⟩ | h | ⟨-, h⟩ | ⟨-, -, h⟩ | ⟨-, i, -, h⟩ := writeReg_cases s r v <;> rw [h]
  · exact hs
  · exact ⟨hs.params, ⟨hs.errors.1, hg ▸ hs.errors.2⟩, hs.quiet, hs.memory, hs.layer, hs.taint⟩
  · exact hs.acknowledge v
  · exact hs.reject
  · exact hs.accept v
  · exact ⟨hs.params, hs.errors, hs.quiet, hs.memory, hs.layer, hs.taint⟩

theorem writeOffset {s : State} (hs : s.Inv) (off : Nat) (v : Word) : (s.writeOffset off v).Inv := by
  unfold State.writeOffset
  split
  · exact hs.writeReg _ v
  · exact hs

end State.Inv

/-- Only a running command has a read set or a write set (R232). -/
theorem busy_of_hit {s : State} {a : Nat} (h : s.inReadSet a = true ∨ s.inWriteSet a = true) :
    s.status.busy = true := by
  unfold State.inReadSet State.inWriteSet at h
  cases hr : s.running with
  | none => simp [hr] at h
  | some i => exact ((running_eq_some_iff s i).1 hr).1

namespace State.Inv

theorem writeByte {s : State} (hs : s.Inv) {a : Nat} (ha : a < s.params.memBytes) (v : Byte) :
    (s.writeByte a v).Inv where
  params := hs.params
  errors := hs.errors
  quiet := hs.quiet
  memory := by
    obtain ⟨hwf, hin, hl⟩ := hs.memory
    exact ⟨Memory.wf_write _ _ _ hwf, Memory.within_write _ _ _ _ ha hin, hl⟩
  layer := hs.layer
  taint ht := by
    simp only [State.writeByte_tainted, State.writeByte_hazard, State.writeByte_status,
      Bool.or_eq_true] at ht ⊢
    obtain ht | hit := ht
    · exact ⟨(hs.taint ht).1, .inl (hs.taint ht).2⟩
    · exact ⟨busy_of_hit hit, .inr hit⟩

theorem memAfterReset_ok {s : State} (hs : s.Inv) : Memory.wf s.memAfterReset = true ∧
    Memory.within s.params.memBytes s.memAfterReset = true := by
  unfold State.memAfterReset
  split
  · next i hr =>
    obtain ⟨-, -, hc⟩ := (running_eq_some_iff s i).1 hr
    exact writeBytes_output_ok _ hs hc (freeBytes_length ..)
  · exact ⟨hs.memory.1, hs.memory.2.1⟩

theorem hostReset {s : State} (hs : s.Inv) : s.hostReset.Inv where
  params := hs.params
  errors := by simp [State.errorsAgree, Status.reset, Regs.reset]
  quiet hb := nomatch hb
  memory := ⟨hs.memAfterReset_ok.1, hs.memAfterReset_ok.2, rfl, rfl⟩
  layer := freeTree_layer_length ..
  taint ht := nomatch ht

theorem of_hostStep {a : HostAction} {s t : State} (hs : s.Inv) (h : hostStep a s = .next t) :
    t.Inv := by
  obtain ⟨v, rfl⟩ | ⟨v, rfl⟩ | ⟨off, _, v, -, -, -, -, rfl⟩ | ⟨b, v, -, hb, rfl⟩ | ⟨-, rfl⟩ :=
    hostStep_cases a s t h
  · exact hs.answerWord v
  · exact hs.answerByte v
  · exact hs.writeOffset off v
  · exact hs.writeByte hb v
  · exact hs.hostReset

theorem powerOn {p : Params} (hp : p.wf = true) : (State.powerOn p).Inv where
  params := hp
  errors := by simp [State.errorsAgree, State.powerOn, Status.reset, Regs.reset]
  quiet hb := nomatch hb
  memory := ⟨rfl, rfl, rfl, rfl⟩
  layer := List.length_replicate
  taint ht := nomatch ht

end State.Inv

/-- Settles O57: a step is the engine's turn or the host's on the state whose event has been taken, and
each operation these are made of keeps the invariant. -/
theorem everyStepKeepsTheInvariant : Obligations.EveryStepKeepsTheInvariant := by
  intro s t hs h
  obtain ⟨-, he⟩ | ⟨a, rest, -, hh⟩ := step_cases s t h
  · exact hs.afterTake.of_engineStep he
  · exact hs.afterTake.of_hostStep hh

/-- Settles O56: at power-on nothing runs, nothing is reported, the memory is empty and the layer buffer
is made with MAX_LEAVES entries. -/
theorem powerOnMeetsTheInvariant : Obligations.PowerOnMeetsTheInvariant :=
  ⟨reset_inv, fun _ hp => State.Inv.powerOn hp⟩

/-! ### The 16-word schedule window -/

theorem beWords_length : ∀ bs : Bytes, (beWords bs).length = bs.length / 4
  | [] => rfl
  | [_] => by simp [beWords]
  | [_, _] => by simp [beWords]
  | [_, _, _] => by simp [beWords]
  | _ :: _ :: _ :: _ :: rest => by
    simp only [beWords, List.length_cons, beWords_length rest]
    omega

theorem extendW_succ (n : Nat) (w : List Word) :
    extendW (n + 1) w = extendW n w ++ [nextW (extendW n w)] := by
  induction n generalizing w with
  | zero => rfl
  | succ n ih => rw [extendW, ih, ← extendW]

@[simp] theorem extendW_length (n : Nat) (w : List Word) : (extendW n w).length = w.length + n := by
  induction n with
  | zero => rfl
  | succ n ih => simp [extendW_succ, ih, Nat.add_assoc]

/-- Extending a schedule further leaves the words it has. -/
theorem extendW_getD_of_le {m n t : Nat} (w : List Word) (hmn : m ≤ n) (ht : t < w.length + m) :
    (extendW n w).getD t 0 = (extendW m w).getD t 0 := by
  induction n, hmn using Nat.le_induction with
  | base => rfl
  | succ n hmn ih =>
    rw [extendW_succ, List.getD_append _ _ _ _ (by rw [extendW_length]; omega), ih]

theorem extendW_getD_eq {m n t : Nat} (w : List Word) (hm : t < w.length + m)
    (hn : t < w.length + n) : (extendW n w).getD t 0 = (extendW m w).getD t 0 := by
  obtain hmn | hnm := Nat.le_total m n
  · exact extendW_getD_of_le w hmn hm
  · exact (extendW_getD_of_le w hnm hn).symm

/-- The recurrence of R123 reads the last sixteen words only. -/
theorem nextW_drop {w : List Word} {t : Nat} (h : w.length = 16 + t) :
    nextW (w.drop t) = nextW w := by
  have hback : ∀ k, k ≤ 16 → (w.drop t).getD ((w.drop t).length - k) 0 = w.getD (w.length - k) 0 := by
    intro k hk
    rw [List.getD_eq_getElem?_getD, List.getElem?_drop, ← List.getD_eq_getElem?_getD,
      List.length_drop, show t + (w.length - t - k) = w.length - k by omega]
  rw [nextW, hback 16 (by omega), hback 15 (by omega), hback 7 (by omega), hback 2 (by omega), nextW]

theorem rounds_succ (n : Nat) (w : List Word) (v : Digest) :
    rounds (n + 1) w v = round (rounds n w v) (roundConstants.getD n 0) (w.getD n 0) := by
  simp [rounds, List.range_succ]

/-- A round over the window reads `W[t]` and moves the window on to `W[t+1] .. W[t+16]` (R38). -/
theorem windowRound_extendW {w : List Word} (hw : w.length = 16) (t : Nat) (v : Digest) :
    windowRound t (v, (extendW t w).drop t) =
      (round v (roundConstants.getD t 0) ((extendW t w).getD t 0),
        (extendW (t + 1) w).drop (t + 1)) := by
  have hlen : (extendW t w).length = 16 + t := by rw [extendW_length, hw]
  have hhead : ((extendW t w).drop t).getD 0 0 = (extendW t w).getD t 0 := by
    simp [List.getD_eq_getElem?_getD]
  have htail : ((extendW t w).drop t).drop 1 ++ [nextW (extendW t w)] =
      (extendW (t + 1) w).drop (t + 1) := by
    rw [extendW_succ, List.drop_append_of_le_length (by omega), List.drop_drop]
  rw [windowRound, nextW_drop hlen, hhead, htail]

/-- After `n` rounds the window holds `W[n] .. W[n+15]` and the working variables are those of `n`
rounds over the whole schedule. -/
theorem foldl_windowRound {w : List Word} (hw : w.length = 16) (hin : Digest) {n : Nat}
    (hn : n ≤ 64) :
    (List.range n).foldl (fun x t => windowRound t x) (hin, w) =
      (rounds n (extendW 48 w) hin, (extendW n w).drop n) := by
  induction n with
  | zero => rfl
  | succ n ih =>
    have hword : (extendW n w).getD n 0 = (extendW 48 w).getD n 0 :=
      extendW_getD_eq w (by omega) (by omega)
    rw [List.range_succ, List.foldl_append, ih (by omega), List.foldl_cons, List.foldl_nil,
      windowRound_extendW hw, hword, ← rounds_succ]

/-- Settles O11: the window's working variables are those of the rounds over the schedule, by induction on
the number of rounds, so the feed-forward is the same. -/
theorem sixteenWordWindowComputesCompress : Obligations.SixteenWordWindowComputesCompress := by
  intro hin block hblock
  have hw : (beWords block).length = 16 := by rw [beWords_length, hblock]
  rw [compressWindow, foldl_windowRound hw hin le_rfl, compressBlock, schedule]

/-! ### HAZARD -/

/-- `t` keeps the HAZARD of `s` but for reads among the bytes of `rs` (20_memory.md R76). -/
def HazardByReadsIn (s t : State) (rs : List AddrRange) : Prop :=
  ∃ rs', t.hazard = (s.hazard || s.readsUnwritten rs') ∧
    ∀ a, covers rs' a = true → covers rs a = true

theorem HazardByReadsIn.of_eq {s t : State} (rs : List AddrRange) (h : t.hazard = s.hazard) :
    HazardByReadsIn s t rs :=
  ⟨[], by simp [h, State.readsUnwritten], by simp [covers]⟩

theorem HazardByReadsIn.of_reads {s t : State} {rs : List AddrRange}
    (h : t.hazard = (s.hazard || s.readsUnwritten rs)) : HazardByReadsIn s t rs :=
  ⟨rs, h, fun _ ha => ha⟩

theorem HazardByReadsIn.mono {s t : State} {rs : List AddrRange} (h : HazardByReadsIn s t rs)
    (hs : s.hazard = true) : t.hazard = true := by
  obtain ⟨rs', ht, -⟩ := h
  simp [ht, hs]

/-- Where HAZARD becomes set, a byte of the ranges had never been written at acceptance. -/
theorem HazardByReadsIn.exists_unwritten {s t : State} {rs : List AddrRange}
    (h : HazardByReadsIn s t rs) (hs : s.hazard = false) (ht : t.hazard = true) :
    ∃ a, covers rs a = true ∧ Memory.get? s.latch.mem a = none := by
  obtain ⟨rs', heq, hsub⟩ := h
  have hread : s.readsUnwritten rs' = true := by simpa [ht, hs] using heq.symm
  obtain ⟨a, ha, hnone⟩ := (readsUnwritten_iff s rs').1 hread
  exact ⟨a, hsub a ha, hnone⟩

theorem compressed_hazard (s : State) :
    HazardByReadsIn s s.compressed [(s.src, 64)] := by
  cases hc : s.compressCheck with
  | some e => rw [compressed_failing s e hc]; exact .of_eq _ rfl
  | none => rw [compressed_passing s hc]; exact .of_reads rfl

theorem hashed_hazard (s : State) (fmt : OutFmt) :
    HazardByReadsIn s (s.hashed fmt) [(s.src, s.len)] := by
  cases hc : s.hashCheck fmt with
  | some e => rw [hashed_failing s fmt e hc]; exact .of_eq _ rfl
  | none => rw [hashed_passing s fmt hc]; exact .of_reads rfl

theorem stored_hazard (s : State) (fmt : OutFmt) : (s.stored fmt).hazard = s.hazard := by
  cases hc : s.storeCheck fmt with
  | some e => rw [stored_failing s fmt e hc]; rfl
  | none => rw [stored_passing s fmt hc]; rfl

/-- The bytes a `merkle` command reads are among those of its table and its leaves, whatever its
outcome. -/
theorem covers_merkleReads {s : State} {fmt : OutFmt} {a : Nat}
    (h : covers (s.merkleReads fmt) a = true) :
    covers (s.tableRange s.len :: s.leafRanges) a = true := by
  unfold State.merkleReads at h
  split at h
  · simp [covers] at h
  split at h
  · next k hk =>
    have hlt := ((firstBadLeaf_eq_some_iff s k).1 hk).1
    simp only [covers_iff, List.mem_singleton, State.tableRange] at h ⊢
    obtain ⟨r, rfl, hlo, hhi⟩ := h
    exact ⟨(s.src, 8 * s.len), List.mem_cons_self, hlo, by dsimp only at hhi ⊢; omega⟩
  · exact h

theorem merkled_hazard_eq (s : State) (fmt : OutFmt) :
    (s.merkled fmt).hazard = (s.hazard || s.readsUnwritten (s.merkleReads fmt)) := by
  cases hc : s.merkleCheck fmt with
  | some e => rw [merkled_failing s fmt e hc]; rfl
  | none =>
    obtain ⟨root, hr⟩ := exists_root_of_check s fmt hc
    obtain ⟨ht, hl⟩ := (merkleCheck_eq_none_iff s fmt).1 hc
    rw [merkled_passing s fmt root hc hr, State.merkleReads, ht, hl]
    rfl

theorem merkled_hazard (s : State) (fmt : OutFmt) :
    HazardByReadsIn s (s.merkled fmt) (s.tableRange s.len :: s.leafRanges) :=
  ⟨s.merkleReads fmt, merkled_hazard_eq s fmt, fun _ => covers_merkleReads⟩

/-- A completion sets HAZARD by reads of its command's read set only. -/
theorem exec_hazard {i : Instr} {s t : State} (h : exec i s = .next t) :
    HazardByReadsIn s t (s.readSet i) := by
  cases i <;> cases h
  case nop => exact .of_eq _ rfl
  case init => exact .of_eq _ rfl
  case compress => exact compressed_hazard s
  case hash => exact hashed_hazard s .plain
  case hashBin => exact hashed_hazard s .bin
  case hashHex => exact hashed_hazard s .hex
  case merkle => exact merkled_hazard s .plain
  case merkleBin => exact merkled_hazard s .bin
  case merkleHex => exact merkled_hazard s .hex
  case storeBin => exact .of_eq _ (stored_hazard s .bin)
  case storeHex => exact .of_eq _ (stored_hazard s .hex)

theorem engineStep_hazard {s t : State} (h : engineStep s = .next t) :
    t.hazard = s.hazard ∨ (s.status.busy = true ∧ ∃ i, decode s.latch.cmd = .ok i ∧
      HazardByReadsIn s t (s.readSet i)) := by
  obtain ⟨-, rfl⟩ | ⟨hb, i, hd, he⟩ | ⟨-, -, rfl⟩ := engineStep_cases s t h
  · exact .inl rfl
  · exact .inr ⟨hb, i, hd, exec_hazard he⟩
  · exact .inl rfl

theorem writeReg_hazard (s : State) (r : RegName) (v : Word) :
    (s.writeReg r v).hazard = s.hazard := by
  obtain h | ⟨g, h, -⟩ | h | ⟨-, h⟩ | ⟨-, -, h⟩ | ⟨-, i, -, h⟩ := writeReg_cases s r v
  all_goals exact (congrArg State.hazard h :)

theorem writeOffset_hazard (s : State) (off : Nat) (v : Word) :
    (s.writeOffset off v).hazard = s.hazard := by
  unfold State.writeOffset
  split
  · exact writeReg_hazard s _ v
  · rfl

/-- Of the host's steps a memory write alone can change HAZARD (R232). -/
theorem hostStep_hazard {a : HostAction} {s t : State} (h : hostStep a s = .next t) :
    t.hazard = s.hazard ∨ ∃ b v, a = .memWrite b v ∧
      t.hazard = (s.hazard || (s.inReadSet b || s.inWriteSet b)) := by
  obtain ⟨v, rfl⟩ | ⟨v, rfl⟩ | ⟨off, _, v, -, -, -, -, rfl⟩ | ⟨b, v, ha, -, rfl⟩ | ⟨-, rfl⟩ :=
    hostStep_cases a s t h
  · exact .inl (s.answerWord_hazard v)
  · exact .inl (s.answerByte_hazard v)
  · exact .inl (writeOffset_hazard s off v)
  · exact .inr ⟨b, v, ha, rfl⟩
  · exact .inl rfl

/-- Settles O36: the engine's turn sets HAZARD by reads of the completing command's read set, the host's
by a write into the running command's sets, and both only ever add to it. -/
theorem hazardIsSetByTheTwoRulesAndNeverCleared :
    Obligations.HazardIsSetByTheTwoRulesAndNeverCleared := by
  intro s t h
  obtain ⟨hturn, he⟩ | ⟨a, rest, ha, hh⟩ := step_cases s t h
  · obtain heq | ⟨hb, i, hd, hr⟩ := engineStep_hazard he
    · rw [s.afterTake_hazard] at heq
      exact ⟨fun hs => heq.trans hs, fun hs ht => absurd (heq.symm.trans ht) (by simp [hs])⟩
    · exact ⟨hr.mono, fun hs ht =>
        have ⟨b, hcov, hnone⟩ := hr.exists_unwritten hs ht
        ⟨hb, .inr ⟨hturn, i, b, hd, hcov, hnone⟩⟩⟩
  · obtain heq | ⟨b, v, rfl, heq⟩ := hostStep_hazard hh
    · rw [s.afterTake_hazard] at heq
      exact ⟨fun hs => heq.trans hs, fun hs ht => absurd (heq.symm.trans ht) (by simp [hs])⟩
    · refine ⟨fun hs => by rw [heq]; simp [hs], fun hs ht => ?_⟩
      have hit : s.inReadSet b = true ∨ s.inWriteSet b = true := by
        rw [heq, s.afterTake_hazard, hs, Bool.false_or, Bool.or_eq_true] at ht
        exact ht
      exact ⟨busy_of_hit hit, .inl ⟨b, v, rest, ha, hit⟩⟩

/-! ### The register map -/

theorem regOffset_lt (r : RegName) : regOffset r < 256 := by
  cases r
  case h i => simp only [regOffset]; omega
  all_goals decide

theorem regOffset_mod_four (r : RegName) : regOffset r % 4 = 0 := by
  cases r
  case h i => simp only [regOffset]; omega
  all_goals rfl

@[simp] theorem regAt_regOffset (r : RegName) : regAt (regOffset r) = some r := by
  cases r
  case h i => exact regAt_h i
  all_goals rfl

/-- The two reserved stretches of R33. -/
theorem regAt_reserved {off : Nat}
    (h : 0x028 ≤ off ∧ off ≤ 0x03C ∨ 0x060 ≤ off ∧ off ≤ 0x0FC) : regAt off = none := by
  unfold regAt
  repeat rw [if_neg (by omega)]

theorem hostStep_regWrite_regOffset (s : State) (r : RegName) (v : Word) :
    hostStep (.regWrite (s.params.regBase + regOffset r) 32 v) s = .next (s.writeReg r v) := by
  rw [hostStep_regWrite s _ v (regOffset_lt r) (regOffset_mod_four r), State.writeOffset,
    regAt_regOffset]

theorem hostStep_regRead_regOffset (s : State) (r : RegName) :
    hostStep (.regRead (s.params.regBase + regOffset r) 32) s =
      .next (s.answerWord (s.regAnswer r)) := by
  rw [hostStep_regRead s _ (regOffset_lt r) (regOffset_mod_four r), State.readOffset,
    regAt_regOffset]

theorem digestWord_setDigestWord (d : Digest) (i j : Fin 8) (v : Word) :
    digestWord (setDigestWord d i v) j = if j = i then v else digestWord d j := by
  fin_cases i <;> fin_cases j <;> rfl

theorem ctrlWord_eq (ie : Bool) : ctrlWord ie = if ie then 1 else 0 := by
  cases ie <;> rfl

/-- Settles O44: with BUSY = 0 a write at the offset of `H[i]` sets that word and a read answers it. -/
theorem idleHashStateWritesAndReads : Obligations.IdleHashStateWritesAndReads := by
  intro s i v hb
  refine ⟨setDigestWord s.h i v, ?write, by simp [digestWord_setDigestWord],
    fun j hj => by simp [digestWord_setDigestWord, hj], ?read⟩
  case write =>
    refine (hostStep_regWrite_regOffset s (.h i) v).trans ?_
    simp [State.writeReg, hb]
  case read =>
    refine (hostStep_regRead_regOffset s (.h i)).trans ?_
    simp [State.regAnswer, State.answerWord, hb]

/-- Settles O45: each pair of the list is a register's offset with the value its read answers. -/
theorem registerMapReads : Obligations.RegisterMapReads := by
  intro s off v hmem
  simp only [List.mem_cons, List.not_mem_nil, or_false, Prod.mk.injEq] at hmem
  obtain ⟨rfl, rfl⟩ | ⟨rfl, rfl⟩ | ⟨rfl, rfl⟩ | ⟨rfl, rfl⟩ | ⟨rfl, rfl⟩ | ⟨rfl, rfl⟩ | ⟨rfl, rfl⟩ |
    ⟨rfl, rfl⟩ | ⟨rfl, rfl⟩ | ⟨rfl, rfl⟩ := hmem
  · exact hostStep_regRead_regOffset s .id
  · rw [← ctrlWord_eq]
    exact hostStep_regRead_regOffset s .ctrl
  · exact hostStep_regRead_regOffset s .status
  · exact hostStep_regRead_regOffset s .cmd
  · exact hostStep_regRead_regOffset s .srcAddr
  · exact hostStep_regRead_regOffset s .len
  · exact hostStep_regRead_regOffset s .dstAddr
  · exact hostStep_regRead_regOffset s .errInfo
  · exact hostStep_regRead_regOffset s .capMem
  · exact hostStep_regRead_regOffset s .capLeaves

/-! ### STATUS -/

/-- The places of R24: for each error number, a finite check over the four flags. -/
theorem Status.word_fields (st : Status) :
    st.word.getLsbD 0 = st.busy ∧ st.word.getLsbD 1 = st.done ∧ st.word.getLsbD 2 = st.err ∧
    st.word.getLsbD 3 = st.rej ∧ (st.word.extractLsb' 8 4).toNat = codeNumber st.errCode ∧
    st.word.extractLsb' 4 4 = 0 ∧ st.word.extractLsb' 12 20 = 0 := by
  obtain ⟨busy, done, err, rej, code⟩ := st
  cases code <;> revert busy done err rej <;> decide

/-- Settles O46: the places of the fields, and the numbers of R190 as `codeNumber` has them. -/
theorem statusWordLayout : Obligations.StatusWordLayout := by
  intro st
  obtain ⟨hbusy, hdone, herr, hrej, hcode, hlow, hhigh⟩ := st.word_fields
  exact ⟨hbusy, hdone, herr, hrej, hcode, hlow, hhigh, rfl, rfl, rfl, rfl, rfl, rfl, rfl⟩

theorem State.acknowledge_of_zeros {s : State} {v : Word} (h1 : v.getLsbD 1 = false)
    (h2 : v.getLsbD 2 = false) (h3 : v.getLsbD 3 = false) : s.acknowledge v = s := by
  simp only [State.acknowledge, Status.written, h1, h2, h3, Bool.not_false, Bool.and_true,
    Bool.false_eq_true, if_false]

/-- Settles O47: the write is `State.acknowledge`, whose flags are those of R24. -/
theorem statusIsWrittenOneToClear : Obligations.StatusIsWrittenOneToClear := by
  intro s v
  have hwrite : hostStep (.regWrite (s.params.regBase + 0x008) 32 v) s = .next (s.acknowledge v) :=
    hostStep_regWrite_regOffset s .status v
  refine ⟨?_, fun h1 h2 h3 => by rw [hwrite, State.acknowledge_of_zeros h1 h2 h3]⟩
  rw [hwrite]
  simp only [State.acknowledge, Status.written, Bool.if_false_left, Bool.decide_eq_true,
    Bool.and_comm]

/-- Settles O48: the read-only registers and the reserved stretches take no write, and nothing is read at a
reserved offset. -/
theorem readOnlyAndReservedOffsets : Obligations.ReadOnlyAndReservedOffsets := by
  intro s v off
  refine ⟨fun hmem => ?readOnly, fun h4 hres => ⟨?write, ?read⟩⟩
  case readOnly =>
    simp only [List.mem_cons, List.not_mem_nil, or_false] at hmem
    obtain rfl | rfl | rfl | rfl := hmem
    · exact hostStep_regWrite_regOffset s .id v
    · exact hostStep_regWrite_regOffset s .errInfo v
    · exact hostStep_regWrite_regOffset s .capMem v
    · exact hostStep_regWrite_regOffset s .capLeaves v
  case write =>
    rw [hostStep_regWrite s off v (by omega) h4, State.writeOffset, regAt_reserved hres]
  case read =>
    rw [hostStep_regRead s off (by omega) h4, State.readOffset, regAt_reserved hres]
    rfl

/-- Settles O49, each register at its offset. -/
theorem readWriteRegistersTakeWrites : Obligations.ReadWriteRegistersTakeWrites := fun s v =>
  ⟨hostStep_regWrite_regOffset s .ctrl v, hostStep_regWrite_regOffset s .srcAddr v,
    hostStep_regWrite_regOffset s .len v, hostStep_regWrite_regOffset s .dstAddr v⟩

/-! ### Refusals -/

theorem regAccess_of_ok {p : Params} {addr bits : Nat} (h : regAccessOk p addr bits = true) :
    ∃ off, regAccess p addr bits = .ok off := by
  cases hr : regAccess p addr bits with
  | ok off => exact ⟨off, rfl⟩
  | error r => simp [(regAccess_eq_error_iff p addr bits).1 ⟨r, hr⟩] at h

/-- Settles O50: a register transaction is refused where `regAccess` gives no offset, a memory transaction
at or above MEM_BYTES, and reset never. -/
theorem hostStepsAreRefusedExactlyOutsideTheInterface :
    Obligations.HostStepsAreRefusedExactlyOutsideTheInterface := by
  intro a s
  cases a with
  | regRead addr bits =>
    exact ⟨fun h => have ⟨_, ho⟩ := regAccess_of_ok h; ⟨_, by rw [hostStep, ho]⟩,
      fun h => have ⟨_, hr⟩ := (regAccess_eq_error_iff ..).2 h; ⟨_, by rw [hostStep, hr]⟩⟩
  | regWrite addr bits v =>
    exact ⟨fun h => have ⟨_, ho⟩ := regAccess_of_ok h; ⟨_, by rw [hostStep, ho]⟩,
      fun h => have ⟨_, hr⟩ := (regAccess_eq_error_iff ..).2 h; ⟨_, by rw [hostStep, hr]⟩⟩
  | memRead a =>
    exact ⟨fun h => ⟨_, if_pos (of_decide_eq_true h)⟩, fun h => ⟨_, if_neg (of_decide_eq_false h)⟩⟩
  | memWrite a v =>
    exact ⟨fun h => ⟨_, if_pos (of_decide_eq_true h)⟩, fun h => ⟨_, if_neg (of_decide_eq_false h)⟩⟩
  | reset => exact ⟨fun _ => ⟨_, rfl⟩, fun h => nomatch h⟩

/-! ### IRQ -/

/-- Every completion sets DONE (R193, R194). -/
theorem exec_done {i : Instr} {s t : State} (h : exec i s = .next t) : t.status.done = true := by
  obtain ⟨e, rs, -, rfl⟩ | ⟨-, rfl⟩ | ⟨-, rfl⟩ | ⟨-, -, -, d, w, tr, n, rs, rfl, -⟩ :=
    exec_cases i s t h
  all_goals rfl

theorem engineStep_done {s t : State} (hb : s.status.busy = true) (h : engineStep s = .next t) :
    t.status.done = true := by
  obtain ⟨hidle, -⟩ | ⟨-, i, -, he⟩ | ⟨-, -, rfl⟩ := engineStep_cases s t h
  · simp [hb] at hidle
  · exact exec_done he
  · rfl

/-- Settles O51: a completion sets DONE and keeps IE; acceptance and the two writes clear one of them. -/
theorem interruptFollowsDone : Obligations.InterruptFollowsDone := by
  intro s
  refine ⟨by simp [State.irq], fun t hb h => ?completion, fun c hb => ?acceptance, fun v hv => ?done,
    fun v hv => ?ie⟩
  case completion =>
    rw [State.irq, engineStep_done hb h, (engineStep_hostSideKept h).ie, Bool.and_true]
  case acceptance => simp [State.irq, State.writeReg, hb]
  case done =>
    rw [State.irq, State.writeReg, State.acknowledge_status, Status.written_done, hv, Bool.not_true,
      Bool.and_false, Bool.and_false]
  case ie =>
    rw [State.irq, State.writeReg, hv, Bool.false_and]

/-! ### Power-on -/

/-- Settles O53: `State.powerOn` sets each field named, and STATUS with every flag 0 is the word 0. -/
theorem powerOnResetValues : Obligations.PowerOnResetValues :=
  ⟨rfl, fun _ => ⟨rfl, (by decide : Status.reset.word = 0), rfl, rfl, rfl, rfl, rfl⟩⟩

/-! ### `H` -/

theorem FailedFrom.h_eq {s t : State} {check : Option Failure} (h : FailedFrom s t check) :
    t.h = s.h := by
  obtain ⟨e, rs, -, rfl⟩ := h
  rfl

/-- `store.*` writes back the `H` it reads, where no hazard write has hit it (R144, R232). -/
theorem stored_h {s : State} (fmt : OutFmt) (ht : s.tainted = false) : (s.stored fmt).h = s.h := by
  cases hc : s.storeCheck fmt with
  | some e => rw [stored_failing s fmt e hc]; rfl
  | none => rw [stored_passing s fmt hc, State.deliver_h, State.settledDigest, ht]; rfl

/-- A completion that changes `H` is one without an error, of a command whose rule writes it (R192). -/
theorem exec_changes_h {i : Instr} {s t : State} (ht : s.tainted = false)
    (h : exec i s = .next t) (hne : t.h ≠ s.h) :
    s.check i = none ∧ i ∉ [Instr.nop, Instr.storeBin, Instr.storeHex] := by
  obtain hf | ⟨-, rfl⟩ | ⟨rfl, -⟩ | ⟨hc, hnop, -, -⟩ := exec_cases i s t h
  · exact absurd hf.h_eq hne
  · exact absurd rfl hne
  · exact ⟨rfl, by decide⟩
  · refine ⟨hc, fun hmem => ?_⟩
    simp only [List.mem_cons, List.not_mem_nil, or_false] at hmem
    obtain rfl | rfl | rfl := hmem
    · exact hnop rfl
    · cases h; exact hne (stored_h .bin ht)
    · cases h; exact hne (stored_h .hex ht)

theorem writeReg_changes_h {s : State} {r : RegName} {v : Word} (hne : (s.writeReg r v).h ≠ s.h) :
    s.status.busy = false ∧ ∃ i, r = .h i := by
  obtain h | ⟨g, h, -⟩ | h | ⟨-, h⟩ | ⟨-, -, h⟩ | ⟨hb, i, hr, -⟩ := writeReg_cases s r v
  case inr.inr.inr.inr.inr => exact ⟨hb, i, hr⟩
  all_goals exact absurd (congrArg State.h h :) hne

theorem writeOffset_changes_h {s : State} {off : Nat} {v : Word} (h4 : off % 4 = 0)
    (hne : (s.writeOffset off v).h ≠ s.h) :
    s.status.busy = false ∧ ∃ i : Fin 8, off = 0x040 + 4 * i.val := by
  unfold State.writeOffset at hne
  split at hne
  · next r hr =>
    obtain ⟨hb, i, rfl⟩ := writeReg_changes_h hne
    exact ⟨hb, i, regAt_eq_some off _ h4 hr⟩
  · exact absurd rfl hne

/-- Of the host's steps reset and an idle write of an `H` register can change `H` (R32, R196). -/
theorem hostStep_changes_h {a : HostAction} {s t : State} (h : hostStep a s = .next t)
    (hne : t.h ≠ s.h) :
    a = .reset ∨ (s.status.busy = false ∧ ∃ (i : Fin 8) (v : Word),
      a = .regWrite (s.params.regBase + (0x040 + 4 * i.val)) 32 v) := by
  obtain ⟨v, rfl⟩ | ⟨v, rfl⟩ | ⟨off, bits, v, rfl, h4, -, rfl, rfl⟩ | ⟨b, v, -, -, rfl⟩ | ⟨ha, -⟩ :=
    hostStep_cases a s t h
  · exact absurd (s.answerWord_h v) hne
  · exact absurd (s.answerByte_h v) hne
  · obtain ⟨hb, i, rfl⟩ := writeOffset_changes_h h4 hne
    exact .inr ⟨hb, i, v, rfl⟩
  · exact absurd rfl hne
  · exact .inl ha

/-- Settles O59: in the engine's turn `H` changes by a passing command that writes it, in the host's by
reset or an idle write of an `H` register. -/
theorem hashStateChangesOnlyByTheRules : Obligations.HashStateChangesOnlyByTheRules := by
  intro s t ht h hne
  obtain ⟨hturn, he⟩ | ⟨a, rest, ha, hh⟩ := step_cases s t h
  · obtain ⟨-, rfl⟩ | ⟨hb, i, hd, hx⟩ | ⟨-, -, rfl⟩ := engineStep_cases _ t he
    · exact absurd rfl hne
    · exact .inr (.inr ⟨hb, hturn, i, hd, exec_changes_h (s := s.afterTake) ht hx hne⟩)
    · exact absurd rfl hne
  · obtain rfl | ⟨hb, i, v, rfl⟩ := hostStep_changes_h hh hne
    · exact .inl ⟨rest, ha⟩
    · exact .inr (.inl ⟨hb, i, v, rest, ha⟩)

end Sys2Proof.Machine
end

section
/-! PROOFS for 20_memory.md: what completions read and write lies in the memory (O31), reads are of the
memory of acceptance (O32), and HAZARD is set exactly by reads of never-written bytes (O35). -/

namespace Sys2Proof.Machine

/-! ### Ranges inside the memory -/

theorem lt_memBytes_of_covers {p : Params} {rs : List AddrRange} {a : Nat}
    (hin : ∀ r ∈ rs, inRange p r.1 r.2 = true) (h : covers rs a = true) : a < p.memBytes := by
  obtain ⟨r, hr, hlo, hhi⟩ := (covers_iff rs a).1 h
  have hr' := (inRange_iff p r.1 r.2).1 (hin r hr)
  omega

/-- Once the table checks have passed, the first descriptors of the table lie in the memory (R178). -/
theorem tableRange_inRange {s : State} {fmt : OutFmt} {n : Nat} (ht : s.tableCheck fmt = none)
    (hn : n ≤ s.len) : inRange s.params (s.tableRange n).1 (s.tableRange n).2 = true := by
  obtain ⟨-, -, hsrc, -⟩ := (tableCheck_eq_none_iff s fmt).1 ht
  simp only [inRange_iff, State.tableRange] at hsrc ⊢
  omega

theorem leafRanges_inRange {s : State} (hl : s.firstBadLeaf = none) :
    ∀ r ∈ s.leafRanges, inRange s.params r.1 r.2 = true := by
  intro r hr
  obtain ⟨k, hk, rfl⟩ := List.mem_map.1 hr
  exact (firstBadLeaf_eq_none_iff s).1 hl k (List.mem_range.1 hk)

/-! ### What a `merkle` command reads, by the outcome of its checks -/

theorem merkleReads_of_tableCheck_some {s : State} {fmt : OutFmt} {e : Failure}
    (h : s.tableCheck fmt = some e) : s.merkleReads fmt = [] := by
  simp only [State.merkleReads, h]

theorem merkleReads_of_firstBadLeaf_some {s : State} {fmt : OutFmt} {k : Nat}
    (ht : s.tableCheck fmt = none) (hk : s.firstBadLeaf = some k) :
    s.merkleReads fmt = [s.tableRange (k + 1)] := by
  simp only [State.merkleReads, ht, hk]

theorem merkleReads_of_passing {s : State} {fmt : OutFmt} (ht : s.tableCheck fmt = none)
    (hl : s.firstBadLeaf = none) : s.merkleReads fmt = s.tableRange s.len :: s.leafRanges := by
  simp only [State.merkleReads, ht, hl]

theorem merkleReads_inRange (s : State) (fmt : OutFmt) :
    ∀ r ∈ s.merkleReads fmt, inRange s.params r.1 r.2 = true := by
  cases ht : s.tableCheck fmt with
  | some e => simp [merkleReads_of_tableCheck_some ht]
  | none =>
    cases hl : s.firstBadLeaf with
    | some k =>
      rw [merkleReads_of_firstBadLeaf_some ht hl, List.forall_mem_singleton]
      exact tableRange_inRange ht ((firstBadLeaf_eq_some_iff s k).1 hl).1
    | none =>
      rw [merkleReads_of_passing ht hl]
      exact List.forall_mem_cons.2 ⟨tableRange_inRange ht le_rfl, leafRanges_inRange hl⟩

theorem merkleReads_of_merkleCheck_none {s : State} {fmt : OutFmt} (h : s.merkleCheck fmt = none) :
    s.merkleReads fmt = s.tableRange s.len :: s.leafRanges :=
  have ⟨ht, hl⟩ := (merkleCheck_eq_none_iff s fmt).1 h
  merkleReads_of_passing ht hl

/-- An error of `merkle*` other than LEAF_RANGE is one of the checks made before the table is read. -/
theorem tableCheck_of_merkleCheck_some {s : State} {fmt : OutFmt} {e : Failure}
    (h : s.merkleCheck fmt = some e) (he : e.1 ≠ .leafRange) : s.tableCheck fmt = some e := by
  unfold State.merkleCheck at h
  split at h
  · next e' ht => exact ht.trans h
  · obtain ⟨k, -, rfl⟩ := Option.map_eq_some_iff.1 h
    exact absurd rfl he

/-! ### The bytes read and written lie in the memory -/

theorem hashReads_inRange {s : State} {fmt : OutFmt} (h : s.hashCheck fmt = none) :
    ∀ r ∈ [(s.src, s.len)], inRange s.params r.1 r.2 = true :=
  List.forall_mem_singleton.2 ((hashCheck_eq_none_iff s fmt).1 h).1

/-- The table and the leaves of a `merkle` command that has passed its checks lie in the memory. -/
theorem tableAndLeaves_inRange {s : State} {fmt : OutFmt} (h : s.merkleCheck fmt = none) :
    ∀ r ∈ s.tableRange s.len :: s.leafRanges, inRange s.params r.1 r.2 = true :=
  merkleReads_of_merkleCheck_none h ▸ merkleReads_inRange s fmt

/-- The read set of a command that has passed its checks lies in the memory (R62). -/
theorem readSet_inRange {s : State} {i : Instr} (h : s.check i = none) :
    ∀ r ∈ s.readSet i, inRange s.params r.1 r.2 = true := by
  cases i
  case nop => exact List.forall_mem_nil _
  case init => exact List.forall_mem_nil _
  case compress => exact List.forall_mem_singleton.2 ((compressCheck_eq_none_iff s).1 h)
  case hash => exact hashReads_inRange h
  case hashBin => exact hashReads_inRange h
  case hashHex => exact hashReads_inRange h
  case merkle => exact tableAndLeaves_inRange h
  case merkleBin => exact tableAndLeaves_inRange h
  case merkleHex => exact tableAndLeaves_inRange h
  case storeBin => exact List.forall_mem_nil _
  case storeHex => exact List.forall_mem_nil _

theorem FailedFrom.mem_eq {s t : State} {check : Option Failure} (h : FailedFrom s t check) :
    t.mem = s.mem := by
  obtain ⟨e, rs, -, rfl⟩ := h
  rfl

theorem DeliveredFrom.memoryKeptOutside {s t : State} {fmt : OutFmt} (h : DeliveredFrom s t fmt) :
    s.memoryKeptOutside t s.dst (outSize fmt) := by
  obtain ⟨d, w, tr, n, rs, rfl, -⟩ := h
  intro b hb
  rw [State.deliver_mem]
  exact Memory.get?_writeBytes_outside _ _ _ _ (by rw [settledOutput_length]; exact hb)

/-- A byte a completion changes lies in the output range of a command that has passed its checks. -/
theorem exec_changes_mem {i : Instr} {s t : State} {a : Nat} (h : exec i s = .next t)
    (hne : Memory.get? t.mem a ≠ Memory.get? s.mem a) :
    s.check i = none ∧ s.dst ≤ a ∧ a < s.dst + outSize (outFmtOf i) := by
  obtain hf | ⟨-, rfl⟩ | ⟨-, rfl⟩ | ⟨hc, -, -, hd⟩ := exec_cases i s t h
  · exact absurd (by rw [hf.mem_eq]) hne
  · exact absurd rfl hne
  · exact absurd rfl hne
  · have hin : ¬(a < s.dst ∨ s.dst + outSize (outFmtOf i) ≤ a) :=
      fun hout => hne (hd.memoryKeptOutside a hout)
    exact ⟨hc, by omega, by omega⟩

/-- Settles O31: the checks put the output range and the read set inside the memory, and only a command
that has passed them writes; `merkle*` reads no descriptor before its table has been checked. -/
theorem engineWritesOnlyItsOutputInsideTheMemory :
    Obligations.EngineWritesOnlyItsOutputInsideTheMemory := by
  refine ⟨fun i s t a h hne => ?_, fun i s a hc => lt_memBytes_of_covers (readSet_inRange hc),
    fun fmt s a => lt_memBytes_of_covers (merkleReads_inRange s fmt)⟩
  obtain ⟨hc, hlo, hhi⟩ := exec_changes_mem h hne
  have hout := check_none_output s i hc
  exact ⟨hlo, hhi, by omega⟩

/-! ### The memory of acceptance -/

theorem writeReg_cmd_of_idle {s : State} (hb : s.status.busy = false) (c : Word) :
    s.writeReg .cmd c = s.accept c := by
  simp [State.writeReg, hb]

/-- The engine reads the bytes of the latched copy where they have been written (R72). -/
theorem engineRead_of_latch_mem {s : State} {a : Nat} {bs : Bytes}
    (h : ∀ k, k < bs.length → Memory.get? s.latch.mem (a + k) = bs[k]?) :
    s.engineRead a bs.length = bs := by
  refine List.ext_getElem (engineRead_length ..) fun k _ hk => ?_
  simp [State.engineRead, State.engineByte, h k hk, hk]

theorem byte_shiftLeft_toNat (b : Byte) {n : Nat} (hn : n ≤ 24) :
    (b.setWidth 32 <<< n).toNat = 2 ^ n * b.toNat := by
  have hlt : b.toNat * 2 ^ n < 2 ^ 32 :=
    calc b.toNat * 2 ^ n < 2 ^ 8 * 2 ^ n := Nat.mul_lt_mul_of_pos_right b.isLt (Nat.two_pow_pos n)
      _ = 2 ^ (8 + n) := (Nat.pow_add ..).symm
      _ ≤ 2 ^ 32 := Nat.pow_le_pow_right (by decide) (by omega)
  rw [BitVec.toNat_shiftLeft, BitVec.toNat_setWidth_of_le (by decide), Nat.shiftLeft_eq,
    Nat.mod_eq_of_lt hlt, Nat.mul_comm]

/-- `be32` is the big-endian value (R9): a byte lies above all the bits of the bytes after it, so `|||`
adds it to them. -/
theorem be32_toNat (b₀ b₁ b₂ b₃ : Byte) : (be32 b₀ b₁ b₂ b₃).toNat =
    2 ^ 24 * b₀.toNat + 2 ^ 16 * b₁.toNat + 2 ^ 8 * b₂.toNat + b₃.toNat := by
  have h₁ := b₁.isLt
  have h₂ := b₂.isLt
  have h₃ := b₃.isLt
  rw [be32, BitVec.or_assoc, BitVec.or_assoc, BitVec.toNat_or, BitVec.toNat_or, BitVec.toNat_or,
    byte_shiftLeft_toNat b₀ (by decide), byte_shiftLeft_toNat b₁ (by decide),
    byte_shiftLeft_toNat b₂ (by decide), BitVec.toNat_setWidth_of_le (by decide),
    ← Nat.two_pow_add_eq_or_of_lt h₃ b₂.toNat, ← Nat.two_pow_add_eq_or_of_lt (by omega) b₁.toNat,
    ← Nat.two_pow_add_eq_or_of_lt (by omega) b₀.toNat]
  omega

theorem engineRead_four (s : State) (a : Nat) : s.engineRead a 4 =
    [s.engineByte a, s.engineByte (a + 1), s.engineByte (a + 2), s.engineByte (a + 3)] := rfl

theorem engineWord_of_engineRead {s : State} {a : Nat} {b₀ b₁ b₂ b₃ : Byte}
    (h : s.engineRead a 4 = [b₀, b₁, b₂, b₃]) : s.engineWord a = be32 b₀ b₁ b₂ b₃ := by
  rw [engineRead_four] at h
  simp only [List.cons.injEq, and_true] at h
  obtain ⟨h₀, h₁, h₂, h₃⟩ := h
  rw [State.engineWord, h₀, h₁, h₂, h₃]

@[simp] theorem leaves_length (s : State) : s.leaves.length = s.len := by
  simp [State.leaves]

/-- Value `k` is the bytes descriptor `k` describes (R170). -/
theorem leaves_getElem? {s : State} {k : Nat} (hk : k < s.len) :
    s.leaves[k]? = some (s.engineRead (s.leafAddr k) (s.leafLen k)) := by
  simp [State.leaves, State.leaf, hk]

/-- Settles O32: acceptance latches the memory and reads look at the latched copy only; descriptors are
words so read, and the values are listed by their index. -/
theorem engineReadsTheMemoryOfAcceptance : Obligations.EngineReadsTheMemoryOfAcceptance := by
  refine ⟨fun s c hb => ?_, be32_toNat, fun s => ⟨fun k b₀ b₁ b₂ b₃ => ⟨fun h => ?_, fun h => ?_⟩, ?_,
    fun k hk => ?_⟩⟩
  · rw [writeReg_cmd_of_idle hb]
    exact ⟨rfl, fun a bs hbs m => engineRead_of_latch_mem hbs⟩
  · rw [State.leafAddr, engineWord_of_engineRead h]
  · rw [State.leafLen, engineWord_of_engineRead h]
  · exact leaves_length s
  · exact leaves_getElem? hk

/-! ### HAZARD by reads -/

theorem hashed_hazard_of_passing {s : State} {fmt : OutFmt} (hc : s.hashCheck fmt = none) :
    (s.hashed fmt).hazard = (s.hazard || s.readsUnwritten [(s.src, s.len)]) := by
  rw [hashed_passing s fmt hc]; rfl

theorem merkled_hazard_of_passing {s : State} {fmt : OutFmt} (hc : s.merkleCheck fmt = none) :
    (s.merkled fmt).hazard =
      (s.hazard || s.readsUnwritten (s.tableRange s.len :: s.leafRanges)) := by
  rw [merkled_hazard_eq, merkleReads_of_merkleCheck_none hc]

/-- A command that has passed its checks notes the reads of its whole read set (R76). -/
theorem exec_hazard_of_passing {i : Instr} {s t : State} (hc : s.check i = none)
    (h : exec i s = .next t) : t.hazard = (s.hazard || s.readsUnwritten (s.readSet i)) := by
  have quiet : s.hazard = (s.hazard || s.readsUnwritten []) := (Bool.or_false _).symm
  cases i <;> cases h
  case nop => exact quiet
  case init => exact quiet
  case compress => rw [compressed_passing s hc]; rfl
  case hash => exact hashed_hazard_of_passing hc
  case hashBin => exact hashed_hazard_of_passing hc
  case hashHex => exact hashed_hazard_of_passing hc
  case merkle => exact merkled_hazard_of_passing hc
  case merkleBin => exact merkled_hazard_of_passing hc
  case merkleHex => exact merkled_hazard_of_passing hc
  case storeBin => exact (stored_hazard s .bin).trans quiet
  case storeHex => exact (stored_hazard s .hex).trans quiet

theorem hashed_hazard_of_failing {s : State} {fmt : OutFmt} {e : Failure}
    (hc : s.hashCheck fmt = some e) : (s.hashed fmt).hazard = s.hazard := by
  rw [hashed_failing s fmt e hc]; rfl

theorem merkled_hazard_of_failing {s : State} {fmt : OutFmt} {e : Failure}
    (hc : s.merkleCheck fmt = some e) (he : e.1 ≠ .leafRange) :
    (s.merkled fmt).hazard = s.hazard := by
  rw [merkled_hazard_eq, merkleReads_of_tableCheck_some (tableCheck_of_merkleCheck_some hc he)]
  exact Bool.or_false _

/-- An error other than LEAF_RANGE is found before the command reads the memory (R178, R191). -/
theorem exec_hazard_of_failing {i : Instr} {s t : State} {e : Failure} (hc : s.check i = some e)
    (he : e.1 ≠ .leafRange) (h : exec i s = .next t) : t.hazard = s.hazard := by
  cases i <;> cases h
  case nop => cases hc
  case init => cases hc
  case compress => rw [compressed_failing s e hc]; rfl
  case hash => exact hashed_hazard_of_failing hc
  case hashBin => exact hashed_hazard_of_failing hc
  case hashHex => exact hashed_hazard_of_failing hc
  case merkle => exact merkled_hazard_of_failing hc he
  case merkleBin => exact merkled_hazard_of_failing hc he
  case merkleHex => exact merkled_hazard_of_failing hc he
  case storeBin => exact stored_hazard s .bin
  case storeHex => exact stored_hazard s .hex

/-- HAZARD is `||` of what it was and the noted reads, read as the statement of R76. -/
theorem hazard_iff_of_eq {s t : State} {rs : List AddrRange}
    (h : t.hazard = (s.hazard || s.readsUnwritten rs)) :
    t.hazard = true ↔ s.hazard = true ∨
      ∃ a, covers rs a = true ∧ Memory.get? s.latch.mem a = none := by
  rw [h, Bool.or_eq_true, readsUnwritten_iff]

/-- Settles O35: a passing command notes its whole read set, a `merkle*` command `merkleReads` in every
outcome, and the other errors note nothing. -/
theorem readingUnwrittenBytesSetsHazard : Obligations.ReadingUnwrittenBytesSetsHazard := by
  refine ⟨fun i s t hc h => hazard_iff_of_eq (exec_hazard_of_passing hc h),
    fun i fmt s t hmem h => ⟨hazard_iff_of_eq ?_, fun k => merkleReads_of_firstBadLeaf_some⟩,
    fun i s t e => exec_hazard_of_failing⟩
  simp only [List.mem_cons, List.not_mem_nil, or_false, Prod.mk.injEq] at hmem
  obtain ⟨rfl, rfl⟩ | ⟨rfl, rfl⟩ | ⟨rfl, rfl⟩ := hmem <;> cases h
  all_goals exact merkled_hazard_eq s _

end Sys2Proof.Machine
end

section
/-! PROOFS for 30_encoding.md: the eleven words and the decoder (O1 to O3), the assembler (O4), an illegal
word (O27) and the acceptance of a word written to CMD (O42). -/

namespace Sys2Proof

/-! ### Words and fields -/

theorem encodeFields_statement : ∀ i : Instr, Laws.EncodeFields.Statement i
  | .nop => Laws.EncodeFields.nop
  | .init => Laws.EncodeFields.init
  | .compress => Laws.EncodeFields.compress
  | .hash => Laws.EncodeFields.hash
  | .hashBin => Laws.EncodeFields.hashBin
  | .hashHex => Laws.EncodeFields.hashHex
  | .merkle => Laws.EncodeFields.merkle
  | .merkleBin => Laws.EncodeFields.merkleBin
  | .merkleHex => Laws.EncodeFields.merkleHex
  | .storeBin => Laws.EncodeFields.storeBin
  | .storeHex => Laws.EncodeFields.storeHex

@[simp] theorem ofWord_encode (i : Instr) : CmdFields.ofWord (encode i) = i.fields :=
  (encodeFields_statement i).1

@[simp] theorem fields_rsv (i : Instr) : i.fields.rsv = 0 := by
  cases i <;> rfl

/-- The decoder's table for every OP, OUTFMT and RSV (R81 to R83). -/
theorem decodeFields_eq_ok_iff (f : CmdFields) (i : Instr) :
    decodeFields f = .ok i ↔ f = i.fields := by
  obtain ⟨op, fmt, rsv⟩ := f
  by_cases hr : rsv = 0
  · subst hr
    exact decodeFields_table op fmt i
  · rw [decodeFields_reservedBits _ hr]
    refine iff_of_false nofun fun hf => hr ?_
    rw [← fields_rsv i, ← hf]

theorem decode_eq_ok_iff (c : Word) (i : Instr) : decode c = .ok i ↔ c = encode i := by
  rw [decode, decodeFields_eq_ok_iff, ← ofWord_encode i]
  exact ⟨CmdFields.ofWord_injective c (encode i), congrArg CmdFields.ofWord⟩

/-! ### The words the decoder refuses -/

theorem exists_decode_error_of_ne_encode {c : Word} (h : ∀ i : Instr, c ≠ encode i) :
    ∃ e, decode c = .error e := by
  cases hd : decode c with
  | ok i => exact absurd ((decode_eq_ok_iff c i).1 hd) (h i)
  | error e => exact ⟨e, rfl⟩

/-- The decoder takes exactly the fields in which the four causes of R85 are absent. -/
theorem decodeFields_isOk (f : CmdFields) : (decodeFields f).isOk = f.wf := by
  obtain ⟨op, fmt, rsv⟩ := f
  by_cases hr : rsv = 0
  · subst hr
    revert op fmt
    decide
  · rw [decodeFields_reservedBits _ hr, CmdFields.wf, decide_eq_false hr, Bool.and_false]
    rfl

theorem exists_decode_error_iff (c : Word) :
    (∃ e, decode c = .error e) ↔ (CmdFields.ofWord c).wf = false := by
  rw [← decodeFields_isOk, ← decode]
  cases decode c with
  | ok i => exact iff_of_false nofun nofun
  | error e => exact iff_of_true ⟨e, rfl⟩ rfl

theorem CmdFields.opDefined_eq_false_iff (f : CmdFields) :
    f.opDefined = false ↔ 6 ≤ f.op.toNat := by
  rw [CmdFields.opDefined, decide_eq_false_iff_not, BitVec.not_le]
  exact BitVec.lt_def

/-- Which formats an OP does not admit: a suffix on `nop`, `init` and `compress`, none on `store`. -/
theorem CmdFields.outfmtAdmitted_eq_false_iff (f : CmdFields) :
    f.outfmtAdmitted = false ↔
      f.op.toNat ≤ 2 ∧ f.outfmt ≠ 0 ∨ f.op = 5 ∧ f.outfmt = 0 := by
  have hle : f.op.toNat ≤ 2 ↔ f.op ≤ 2 := (BitVec.le_def (y := 2)).symm
  rw [hle, CmdFields.outfmtAdmitted]
  split_ifs with h2 h5
  · have h5 : f.op ≠ 5 := fun h => absurd (h ▸ h2) (by decide)
    rw [decide_eq_false_iff_not]
    tauto
  · rw [decide_eq_false_iff_not, not_not]
    tauto
  · exact iff_of_false nofun (by tauto)

/-- `wf` fails exactly by one of the four causes of R85. -/
theorem CmdFields.wf_eq_false_iff (f : CmdFields) :
    f.wf = false ↔ 6 ≤ f.op.toNat ∨ f.outfmt = 3 ∨
      (f.op.toNat ≤ 2 ∧ f.outfmt ≠ 0 ∨ f.op = 5 ∧ f.outfmt = 0) ∨ f.rsv ≠ 0 := by
  rw [CmdFields.wf, Bool.and_eq_false_iff, Bool.and_eq_false_iff, Bool.and_eq_false_iff,
    CmdFields.opDefined_eq_false_iff, CmdFields.outfmtAdmitted_eq_false_iff, CmdFields.outfmtDefined,
    decide_eq_false_iff_not, decide_eq_false_iff_not, not_not, or_assoc, or_assoc]

/-! ### The assembler -/

@[simp] theorem assemble_mnemonic (i : Instr) : assemble i.mnemonic = some (encode i) := by
  cases i <;> rfl

theorem assemble_eq_some_iff (text : String) (w : Word) :
    assemble text = some w ↔ ∃ i : Instr, i.mnemonic = text ∧ encode i = w := by
  constructor
  · intro h
    obtain ⟨i, hi, hw⟩ := Option.map_eq_some_iff.1 h
    exact ⟨i, by simpa using List.find?_some hi, hw⟩
  · rintro ⟨i, rfl, rfl⟩
    exact assemble_mnemonic i

end Sys2Proof

namespace Sys2Proof.Machine

/-! ### Writes of CMD -/

theorem writeReg_cmd_of_busy {s : State} (hb : s.status.busy = true) (c : Word) :
    s.writeReg .cmd c = s.reject := by
  simp [State.writeReg, hb]

/-- A host's write of CMD (offset 0x00C, R21) that is next in the agenda. -/
theorem step_of_agenda_writeCmd {s : State} {c : Word} {rest : List Event}
    (h : s.agenda = .host (.regWrite (s.params.regBase + 0x00C) 32 c) :: rest) :
    step s = .next (State.writeReg { s with agenda := rest } .cmd c) := by
  rw [step_of_agenda_host h]
  exact hostStep_regWrite_regOffset { s with agenda := rest } .cmd c

/-! ### The obligations -/

/-- Settles O1: a word has the fields of a command's row exactly when it is that command's word, for the
fields cover all 32 bits. -/
theorem legalWordsAreExactlyTheEleven : Obligations.LegalWordsAreExactlyTheEleven :=
  ⟨⟨rfl, rfl, rfl, rfl, rfl, rfl, rfl, rfl, rfl, rfl, rfl⟩, decode_eq_ok_iff⟩

/-- Settles O2: the decoder refuses exactly the words whose fields are not well formed. -/
theorem decoderRefusesExactlyByTheFourCauses :
    Obligations.DecoderRefusesExactlyByTheFourCauses := by
  intro c
  rw [exists_decode_error_iff, CmdFields.wf_eq_false_iff, or_assoc]
  rfl

/-- Settles O3, by running the decoder on the seven words. -/
theorem sampleWordsDecode : Obligations.SampleWordsDecode := by
  unfold Obligations.SampleWordsDecode
  decide

/-- Settles O4: the search for a spelling finds the one command that has it. -/
theorem assemblerEmitsTheTableWordOnly : Obligations.AssemblerEmitsTheTableWordOnly :=
  ⟨rfl, assemble_eq_some_iff⟩

/-- Settles O27: the write is accepted, so the engine's turn finds BUSY set and a word the decoder
refuses. -/
theorem illegalWordCompletesInError : Obligations.IllegalWordCompletesInError := by
  intro s c hb hc
  obtain ⟨e, he⟩ := exists_decode_error_of_ne_encode hc
  rw [writeReg_cmd_of_idle hb]
  exact ⟨(s.accept c).raiseError .illegalCmd 0,
    engineStep_of_decode_error (s := s.accept c) rfl he, rfl, rfl, rfl, rfl, rfl, rfl, rfl, rfl, rfl⟩

/-- Settles O42: the step is the write of CMD, which BUSY either accepts or rejects. -/
theorem commandWritesAreAcceptedWhenIdle : Obligations.CommandWritesAreAcceptedWhenIdle := by
  intro s c rest ha
  rw [step_of_agenda_writeCmd ha]
  refine ⟨fun hb => ?idle, fun hb => ?busy⟩
  case idle =>
    rw [writeReg_cmd_of_idle (s := { s with agenda := rest }) hb]
    exact ⟨_, rfl, rfl, rfl, rfl, rfl, rfl, rfl, rfl, rfl, rfl, rfl, rfl, rfl⟩
  case busy =>
    rw [writeReg_cmd_of_busy (s := { s with agenda := rest }) hb]
    rfl

end Sys2Proof.Machine
end

section
/-! PROOFS for 40_sha256_functions.md: the word functions bit by bit, `rotr` as the library's rotation (O7), and
`ch` and `maj` as functions of the bits at one place (O8). -/

namespace Sys2Proof.Machine

/-- The two shifts of R101 are the library's right rotation, which first takes the count modulo 32. -/
theorem rotr_eq_rotateRight (x : Word) {n : Nat} (hn : n < 32) : rotr x n = x.rotateRight n := by
  rw [rotr, BitVec.rotateRight_def, Nat.mod_eq_of_lt hn]

/-- A rotation takes bit `k` from `n` places up, and past bit 31 it goes on at bit 0. -/
theorem getLsbD_rotr (x : Word) {n k : Nat} (hn : n < 32) (hk : k < 32) :
    (rotr x n).getLsbD k = x.getLsbD ((k + n) % 32) := by
  rw [rotr_eq_rotateRight x hn, BitVec.getLsbD_rotateRight_of_lt hn]
  by_cases hkn : k < 32 - n
  case pos =>
    have hsame : (k + n) % 32 = n + k := by omega
    rw [decide_eq_true hkn, cond_true, hsame]
  case neg =>
    have hwrap : (k + n) % 32 = k - (32 - n) := by omega
    rw [decide_eq_false hkn, cond_false, decide_eq_true hk, Bool.true_and, hwrap]

/-- The first term of `ch` is masked by the bit of `e`, the second by its complement, so one of them is 0. -/
theorem getLsbD_ch (e f g : Word) {k : Nat} (hk : k < 32) :
    (ch e f g).getLsbD k = if e.getLsbD k then f.getLsbD k else g.getLsbD k := by
  rw [ch, BitVec.getLsbD_xor, BitVec.getLsbD_and, BitVec.getLsbD_and, BitVec.getLsbD_not,
    decide_eq_true hk]
  cases e.getLsbD k
  case false => simp
  case true => simp

theorem getLsbD_maj (a b c : Word) (k : Nat) :
    (maj a b c).getLsbD k = ((a.getLsbD k && b.getLsbD k) ^^ (a.getLsbD k && c.getLsbD k) ^^
      (b.getLsbD k && c.getLsbD k)) := by
  rw [maj, BitVec.getLsbD_xor, BitVec.getLsbD_xor, BitVec.getLsbD_and, BitVec.getLsbD_and,
    BitVec.getLsbD_and]

/-- The number of pairs of 1s among three bits is odd (1 or 3) exactly when two of the bits are 1. -/
theorem xor_of_pairs_eq_true_iff : ∀ p q r : Bool,
    ((p && q) ^^ (p && r) ^^ (q && r)) = true ↔ 2 ≤ p.toNat + q.toNat + r.toNat := by
  decide

/-! ### The obligations -/

/-- Settles O7: `rotr` is the rotation by a count below 32. -/
theorem rotrMovesEachBitRight : Obligations.RotrMovesEachBitRight := by
  intro x n k _ hn hk
  exact getLsbD_rotr x (by omega) hk

/-- Settles O8: the bit of `x` picks one term of `ch`, and `maj` is the parity of the pairs of 1s. -/
theorem chooseAndMajorityByBit : Obligations.ChooseAndMajorityByBit := by
  intro x y z k hk
  refine ⟨getLsbD_ch x y z hk, ?_⟩
  rw [getLsbD_maj]
  exact xor_of_pairs_eq_true_iff ..

end Sys2Proof.Machine
end

section
/-! PROOFS for 41_sha256_engine.md: padding and its sequencer (O9, O12), the schedule (O10), the known answer
(O13), the forms of a digest (O14), and the commands of the hash unit: what each does (O19 to O24), their
frames (O29, O30), what `hash` and `merkle` depend on (O33) and `compress` over padded blocks (O34). -/

namespace Sys2Proof.Machine

/-! ### Padding -/

theorem padZeros_lt (len : Nat) : padZeros len < 64 := by
  rw [padZeros]; omega

/-- Message, 0x80, zeros and length field fill whole blocks (R120, R121). -/
theorem padZeros_fills (len : Nat) : len + 1 + padZeros len + 8 = 64 * nblocks len := by
  rw [padZeros, nblocks]; omega

/-- No smaller number of zeros fills whole blocks (R120). -/
theorem padZeros_le {len z : Nat} (hz : (len + 1 + z + 8) % 64 = 0) : padZeros len ≤ z := by
  rw [padZeros]; omega

@[simp] theorem pad_length (m : Bytes) : (pad m).length = 64 * nblocks m.length := by
  simp only [pad, List.length_append, List.length_singleton, List.length_replicate, beBytes_length,
    padZeros_fills]

/-- Settles O9: `padZeros` is below 64 and fills whole blocks, and any other count that does is no less. -/
theorem paddingFillsWholeBlocks : Obligations.PaddingFillsWholeBlocks := by
  intro m
  have hfills := padZeros_fills m.length
  exact ⟨⟨padZeros m.length, padZeros_lt _, by omega, fun _ => padZeros_le, rfl⟩, pad_length m, rfl⟩

/-! ### The padding sequencer -/

/-- The padding sequencer makes byte `p` of the padded message, whichever of the four parts `p` lies in
(R132). -/
theorem pad_getElem? {m : Bytes} {p : Nat} (hp : p < 64 * nblocks m.length) :
    (pad m)[p]? = some (streamByte m p) := by
  have hfills := padZeros_fills m.length
  rw [pad, streamByte]
  split_ifs with hmsg hone hzero
  · rw [List.append_assoc, List.append_assoc, List.getElem?_append_left hmsg]
    simp [hmsg]
  · simp [hone]
  · rw [List.getElem?_append_left (by simp; omega), List.getElem?_append_right (by simp; omega),
      List.getElem?_replicate_of_lt (by simp; omega)]
  · have hfront : (m ++ [0x80] ++ List.replicate (padZeros m.length) (0x00 : Byte)).length =
        64 * nblocks m.length - 8 := by simp; omega
    rw [List.getElem?_append_right (by omega), hfront]
    simp [show p - (64 * nblocks m.length - 8) < 8 by omega]

theorem padBlock_getElem? (m : Bytes) (k : Nat) {j : Nat} (hj : j < 64) :
    (padBlock m k)[j]? = (pad m)[64 * k + j]? := by
  rw [padBlock, List.getElem?_take_of_lt hj, List.getElem?_drop]

theorem padBlock_length {m : Bytes} {k : Nat} (hk : k < nblocks m.length) :
    (padBlock m k).length = 64 := by
  rw [padBlock, List.length_take, List.length_drop, pad_length]; omega

theorem streamBlock_eq_padBlock {m : Bytes} {k : Nat} (hk : k < nblocks m.length) :
    streamBlock m k = padBlock m k := by
  refine List.ext_getElem? fun j => ?_
  by_cases hj : j < 64
  · rw [padBlock_getElem? m k hj, pad_getElem? (by omega)]
    simp [streamBlock, hj]
  · rw [List.getElem?_eq_none (by simpa [streamBlock] using hj),
      List.getElem?_eq_none (by rw [padBlock_length hk]; omega)]

/-- Settles O12: the sequencer feeds the blocks of the padded message, so the chaining values are the
same. -/
theorem referenceSequencingComputesSha256 : Obligations.ReferenceSequencingComputesSha256 := by
  intro m
  refine List.foldl_ext _ _ _ fun d k hk => ?_
  rw [streamBlock_eq_padBlock (List.mem_range.1 hk)]

/-! ### The schedule -/

theorem beWords_getD : ∀ (bs : Bytes) {t : Nat}, t < bs.length / 4 →
    (beWords bs).getD t 0 = be32 (bs.getD (4 * t) 0) (bs.getD (4 * t + 1) 0) (bs.getD (4 * t + 2) 0)
      (bs.getD (4 * t + 3) 0)
  | _ :: _ :: _ :: _ :: _, 0, _ => rfl
  | _ :: _ :: _ :: _ :: rest, t + 1, ht => beWords_getD rest (t := t) (by simp at ht; omega)
  | [], _, ht => by simp at ht
  | [_], _, ht => by simp at ht
  | [_, _], _, ht => by simp at ht
  | [_, _, _], _, ht => by simp at ht

theorem schedule_getD {block : Bytes} {n t : Nat} (hb : block.length = 64) (hn : t < 16 + n)
    (ht : t < 64) : (schedule block).getD t 0 = (extendW n (beWords block)).getD t 0 := by
  have hw : (beWords block).length = 16 := by rw [beWords_length, hb]
  exact extendW_getD_eq _ (by omega) (by omega)

/-- `W[t]` from `t = 16` on is the word the recurrence makes of the words before it (R123). -/
theorem schedule_getD_eq_nextW {block : Bytes} {n : Nat} (hb : block.length = 64) (hn : n < 48) :
    (schedule block).getD (16 + n) 0 = nextW (extendW n (beWords block)) := by
  have hw : (beWords block).length = 16 := by rw [beWords_length, hb]
  rw [schedule_getD (n := n + 1) hb (by omega) (by omega), extendW_succ,
    List.getD_append_right _ _ _ _ (by rw [extendW_length, hw]), extendW_length, hw, Nat.sub_self]
  rfl

/-- Settles O10: the first sixteen words are the block's, each later one is `nextW` of the words before
it, and extending the schedule further leaves them. -/
theorem scheduleFollowsTheRecurrence : Obligations.ScheduleFollowsTheRecurrence := by
  intro block hb
  have hw : (beWords block).length = 16 := by rw [beWords_length, hb]
  refine ⟨by rw [schedule, extendW_length, hw], fun t ht => ?first, fun t ht ht' => ?later⟩
  case first =>
    rw [schedule_getD (n := 0) hb (by omega) (by omega)]
    exact beWords_getD block (by omega)
  case later =>
    obtain ⟨n, rfl⟩ := Nat.exists_eq_add_of_le ht
    have hback : ∀ k, 0 < k → k ≤ 16 →
        (extendW n (beWords block)).getD ((extendW n (beWords block)).length - k) 0 =
          (schedule block).getD (16 + n - k) 0 := by
      intro k hk hk'
      rw [extendW_length, hw, schedule_getD (n := n) hb (by omega) (by omega)]
    rw [schedule_getD_eq_nextW hb (by omega), nextW, hback 16 (by decide) (by decide),
      hback 15 (by decide) (by decide), hback 7 (by decide) (by decide),
      hback 2 (by decide) (by decide)]
    rfl

/-- Settles O13, by running the model on the one block of the empty message. -/
theorem emptyMessageKnownAnswer : Obligations.EmptyMessageKnownAnswer := by
  unfold Obligations.EmptyMessageKnownAnswer
  decide +kernel

/-! ### Digests -/

theorem flatMap_getElem?_of_length {α β : Type} {f : α → List β} {c : Nat}
    (hf : ∀ x, (f x).length = c) (l : List α) (i : Nat) {k : Nat} (hk : k < c) :
    (l.flatMap f)[c * i + k]? = l[i]?.bind fun x => (f x)[k]? := by
  induction l generalizing i with
  | nil => rfl
  | cons x xs ih =>
    cases i with
    | zero => simp [List.getElem?_append, hf, hk]
    | succ i =>
      rw [List.flatMap_cons, Nat.mul_succ, List.getElem?_append_right (by rw [hf]; omega), hf,
        show c * i + c + k - c = c * i + k by omega, ih, List.getElem?_cons_succ]

theorem flatMap_inj_of_length {α β : Type} {f : α → List β} {c : Nat} (hinj : f.Injective)
    (hf : ∀ x, (f x).length = c) {l l' : List α} (hl : l.length = l'.length) :
    l.flatMap f = l'.flatMap f ↔ l = l' := by
  have hlens : ∀ l : List α, (l.map f).map List.length = List.replicate l.length c := fun l => by
    simp [List.eq_replicate_iff, hf]
  rw [← hinj.list_map.eq_iff, List.eq_iff_flatten_eq, hlens, hlens, hl, List.flatMap_def,
    List.flatMap_def, and_iff_left rfl]

/-- `be_bytes` puts byte `j` from the end at place `k - 1 - j`. -/
theorem beBytes_getElem? (v : Nat) {k j : Nat} (hj : j < k) :
    (beBytes v k)[j]? = some (BitVec.ofNat 8 (v >>> (8 * (k - 1 - j)))) := by
  induction k generalizing v with
  | zero => omega
  | succ k ih =>
    rw [beBytes]
    obtain hlt | rfl := Nat.lt_succ_iff_lt_or_eq.1 hj
    · rw [List.getElem?_append_left (by simpa using hlt), ih _ hlt,
        show 8 * (k + 1 - 1 - j) = 8 + 8 * (k - 1 - j) by omega, Nat.shiftRight_add,
        Nat.shiftRight_eq_div_pow v]
    · simp

theorem beBytes_inj {v u k : Nat} (hv : v < 256 ^ k) (hu : u < 256 ^ k)
    (h : beBytes v k = beBytes u k) : v = u := by
  induction k generalizing v u with
  | zero => omega
  | succ k ih =>
    obtain ⟨hhigh, hlow⟩ := List.append_inj' h rfl
    rw [Nat.pow_succ] at hv hu
    have hhigh := ih (by omega) (by omega) hhigh
    simp only [List.cons.injEq, and_true] at hlow
    have hlow : v % 256 = u % 256 := congrArg BitVec.toNat hlow
    omega

theorem beBytes_word_injective : Function.Injective fun w : Word => beBytes w.toNat 4 :=
  fun w u h => BitVec.eq_of_toNat_eq (beBytes_inj w.isLt u.isLt h)

theorem digestWords_injective : Function.Injective digestWords := by
  intro d e h
  cases d
  cases e
  simpa [digestWords] using h

theorem digestWords_getElem? (d : Digest) (i : Fin 8) :
    (digestWords d)[i.val]? = some (digestWord d i) := by
  fin_cases i <;> rfl

theorem digestBytes_getD (d : Digest) (i : Fin 8) {k : Nat} (hk : k < 4) :
    (digestBytes d).getD (4 * i.val + k) 0 = (digestWord d i).extractLsb' (24 - 8 * k) 8 := by
  rw [List.getD_eq_getElem?_getD, digestBytes,
    flatMap_getElem?_of_length (fun w : Word => beBytes_length w.toNat 4) _ _ hk, digestWords_getElem?,
    Option.bind_some, beBytes_getElem? _ hk, show 8 * (4 - 1 - k) = 24 - 8 * k by omega]
  rfl

theorem digestBytes_inj {d e : Digest} : digestBytes d = digestBytes e ↔ d = e := by
  have hlen : (digestWords d).length = (digestWords e).length := rfl
  rw [digestBytes, digestBytes, flatMap_inj_of_length beBytes_word_injective
    (fun w => beBytes_length w.toNat 4) hlen, digestWords_injective.eq_iff]

theorem hexChar_toNat : ∀ v : BitVec 4,
    (hexChar v).toNat = if v.toNat < 10 then 0x30 + v.toNat else 0x61 + (v.toNat - 10) := by
  decide

theorem hexChar_injective : Function.Injective hexChar := by
  intro v u h
  have h := congrArg BitVec.toNat h
  rw [hexChar_toNat, hexChar_toNat] at h
  apply BitVec.eq_of_toNat_eq
  split_ifs at h <;> omega

theorem hexChar_range (v : BitVec 4) :
    (0x30 ≤ (hexChar v).toNat ∧ (hexChar v).toNat ≤ 0x39) ∨
      (0x61 ≤ (hexChar v).toNat ∧ (hexChar v).toNat ≤ 0x66) := by
  have hv := v.isLt
  rw [hexChar_toNat]
  split_ifs <;> omega

theorem hexByte_length (x : Byte) : (hexByte x).length = 2 := rfl

theorem hexByte_injective : Function.Injective hexByte := by
  intro x y h
  simp only [hexByte, List.cons.injEq, hexChar_injective.eq_iff, and_true] at h
  obtain ⟨hhigh, hlow⟩ := h
  have hhigh := congrArg BitVec.toNat hhigh
  have hlow := congrArg BitVec.toNat hlow
  simp only [BitVec.extractLsb'_toNat, Nat.shiftRight_eq_div_pow] at hhigh hlow
  apply BitVec.eq_of_toNat_eq
  omega

/-- Every byte of the hex form is a character 0 to 9 or a to f (R130). -/
theorem hexForm_range {d : Digest} {c : Byte} (hc : c ∈ hexForm d) :
    (0x30 ≤ c.toNat ∧ c.toNat ≤ 0x39) ∨ (0x61 ≤ c.toNat ∧ c.toNat ≤ 0x66) := by
  obtain ⟨x, -, hx⟩ := List.mem_flatMap.1 hc
  simp only [hexByte, List.mem_cons, List.not_mem_nil, or_false] at hx
  obtain rfl | rfl := hx
  · exact hexChar_range _
  · exact hexChar_range _

theorem hexForm_inj {d e : Digest} : hexForm d = hexForm e ↔ d = e := by
  rw [hexForm, hexForm, flatMap_inj_of_length hexByte_injective hexByte_length (by simp),
    digestBytes_inj]

theorem hexForm_getD (d : Digest) {j k : Nat} (hj : j < 32) (hk : k < 2) :
    (hexForm d).getD (2 * j + k) 0 = (hexByte ((digestBytes d).getD j 0)).getD k 0 := by
  have hbyte : (digestBytes d)[j]? = some ((digestBytes d).getD j 0) := by simp [hj]
  rw [List.getD_eq_getElem?_getD, hexForm, flatMap_getElem?_of_length hexByte_length _ _ hk, hbyte,
    Option.bind_some, ← List.getD_eq_getElem?_getD]

/-- Settles O14: a digest's words, a word's bytes and a byte's characters have fixed lengths and are told
apart, so the concatenations are read by index and told apart too. -/
theorem digestAndHexFormsTellDigestsApart : Obligations.DigestAndHexFormsTellDigestsApart := by
  exact ⟨rfl, rfl, rfl, hexChar_toNat, fun d e => ⟨rfl, rfl, rfl, rfl,
    fun i k => digestBytes_getD d i, digestBytes_length d, digestBytes_inj, hexForm_length d,
    fun c => hexForm_range, fun j hj => ⟨hexForm_getD d hj (k := 0) (by decide),
    hexForm_getD d hj (k := 1) (by decide)⟩, hexForm_inj⟩⟩

/-! ### The forms of the commands -/

theorem exec_of_mem_hashForms {i : Instr} {fmt : OutFmt}
    (h : (i, fmt) ∈
      [(Instr.hash, OutFmt.plain), (Instr.hashBin, OutFmt.bin), (Instr.hashHex, OutFmt.hex)])
    (s : State) : exec i s = .next (s.hashed fmt) := by
  simp only [List.mem_cons, List.not_mem_nil, or_false, Prod.mk.injEq] at h
  obtain ⟨rfl, rfl⟩ | ⟨rfl, rfl⟩ | ⟨rfl, rfl⟩ := h <;> rfl

theorem exec_of_mem_storeForms {i : Instr} {fmt : OutFmt}
    (h : (i, fmt) ∈ [(Instr.storeBin, OutFmt.bin), (Instr.storeHex, OutFmt.hex)]) (s : State) :
    exec i s = .next (s.stored fmt) := by
  simp only [List.mem_cons, List.not_mem_nil, or_false, Prod.mk.injEq] at h
  obtain ⟨rfl, rfl⟩ | ⟨rfl, rfl⟩ := h <;> rfl

theorem outSize_ne_zero_iff (fmt : OutFmt) : outSize fmt ≠ 0 ↔ fmt ≠ .plain := by
  cases fmt <;> decide

theorem outSize_ne_zero_of_storeForms : ∀ p ∈ [(Instr.storeBin, OutFmt.bin),
    (Instr.storeHex, OutFmt.hex)], outSize p.2 ≠ 0 := by
  decide

/-! ### The checks -/

theorem hashCheck_eq_srcRange {s : State} (fmt : OutFmt)
    (hsrc : inRange s.params s.src s.len = false) : s.hashCheck fmt = some (.srcRange, 0) := by
  simp [State.hashCheck, hsrc]

theorem hashCheck_eq_dstRange {s : State} {fmt : OutFmt}
    (hsrc : inRange s.params s.src s.len = true)
    (hdst : inRange s.params s.dst (outSize fmt) = false) :
    s.hashCheck fmt = some (.dstRange, 0) := by
  simp [State.hashCheck, hsrc, hdst]

theorem storeCheck_eq_dstRange {s : State} {fmt : OutFmt}
    (hdst : inRange s.params s.dst (outSize fmt) = false) :
    s.storeCheck fmt = some (.dstRange, 0) := by
  simp [State.storeCheck, hdst]

/-! ### What depends on the parameters and the latches only -/

theorem check_congr {s s' : State} (hp : s.params = s'.params) (hl : s.latch = s'.latch)
    (i : Instr) : s.check i = s'.check i := by
  cases s
  cases s'
  cases hp
  cases hl
  cases i <;> rfl

/-- The message of `hash*` (R143). -/
theorem message_congr {s s' : State} (hl : s.latch = s'.latch) :
    s.engineRead s.src s.len = s'.engineRead s'.src s'.len := by
  cases s
  cases s'
  cases hl
  rfl

theorem leaves_congr {s s' : State} (hl : s.latch = s'.latch) : s.leaves = s'.leaves := by
  cases s
  cases s'
  cases hl
  rfl

/-! ### Successful completions -/

/-- `DeliveredFrom` with the digest named. -/
def DeliveredDigest (s t : State) (fmt : OutFmt) (d : Digest) : Prop :=
  ∃ w tr n rs,
    t = State.deliver { (s.noteReads rs) with work := w, tree := tr, draws := n } fmt d ∧
    (tr = s.tree ∨ tr = freeTree (s.draws + 1) s.params.maxLeaves)

theorem compressed_deliveredDigest {s : State} (hc : s.compressCheck = none) :
    DeliveredDigest s s.compressed .plain (compressBlock s.h (s.engineRead s.src 64)) :=
  ⟨_, s.tree, _, [(s.src, 64)], compressed_passing s hc, .inl rfl⟩

theorem hashed_deliveredDigest {s : State} {fmt : OutFmt} (hc : s.hashCheck fmt = none) :
    DeliveredDigest s (s.hashed fmt) fmt (sha256 (s.engineRead s.src s.len)) :=
  ⟨_, s.tree, _, [(s.src, s.len)], hashed_passing s fmt hc, .inl rfl⟩

theorem stored_deliveredDigest {s : State} {fmt : OutFmt} (hc : s.storeCheck fmt = none) :
    DeliveredDigest s (s.stored fmt) fmt s.h :=
  ⟨s.work, s.tree, s.draws, [], by rw [stored_passing s fmt hc, noteReads_nil], .inl rfl⟩

theorem merkled_deliveredDigest {s : State} {fmt : OutFmt} {root : Digest}
    (hc : s.merkleCheck fmt = none) (hr : merkleRoot s.leaves = .ok root) :
    DeliveredDigest s (s.merkled fmt) fmt root :=
  ⟨_, _, _, _, merkled_passing s fmt root hc hr, .inr rfl⟩

theorem State.Accepted.completed {s : State} (ha : s.Accepted) :
    s.status.completed = s.status.success := by
  rw [Status.completed, Status.success, ha.err, ha.code]

namespace DeliveredDigest

theorem deliveredFrom {s t : State} {fmt : OutFmt} {d : Digest} (h : DeliveredDigest s t fmt d) :
    DeliveredFrom s t fmt :=
  ⟨d, h⟩

/-- `H` is the digest, where no hazard write has hit the command (R232). -/
theorem h_eq {s t : State} {fmt : OutFmt} {d : Digest} (h : DeliveredDigest s t fmt d)
    (ht : s.tainted = false) : t.h = d := by
  obtain ⟨w, tr, n, rs, rfl, -⟩ := h
  rw [State.deliver_h]
  exact if_neg (by simp [ht])

/-- The output range holds the bytes of the format, where no hazard write has hit the command (R131,
R232). -/
theorem output {s t : State} {fmt : OutFmt} {d : Digest} (h : DeliveredDigest s t fmt d)
    (ht : s.tainted = false) {k : Nat} (hk : k < outSize fmt) :
    Memory.get? t.mem (s.dst + k) = (outBytes fmt d)[k]? := by
  obtain ⟨w, tr, n, rs, rfl, -⟩ := h
  rw [State.deliver_mem, State.settledOutput, if_neg (by simp [ht])]
  exact Memory.get?_writeBytes_inside _ _ _ _ (by rwa [outBytes_length])

theorem succeedsWith {s t : State} {fmt : OutFmt} {d : Digest} (h : DeliveredDigest s t fmt d)
    (ha : s.Accepted) (ht : s.tainted = false) : s.SucceedsWith t fmt d where
  status := by
    obtain ⟨w, tr, n, rs, rfl, -⟩ := h
    exact ha.completed
  errInfo := by
    obtain ⟨w, tr, n, rs, rfl, -⟩ := h
    rfl
  h := h.h_eq ht
  output _ hk := h.output ht hk
  outside := h.deliveredFrom.memoryKeptOutside
  host := h.deliveredFrom.hostSideKept

end DeliveredDigest

/-! ### nop, init and compress -/

/-- Settles O19: `nop` is `complete` alone. -/
theorem nopOnlyCompletes : Obligations.NopOnlyCompletes := fun _ ha =>
  ⟨_, rfl, ha.completed, rfl, rfl, rfl, rfl, rfl, rfl, exec_hostSideKept (i := .nop) rfl⟩

/-- Settles O20: `init` is `complete` after `H` has been set to the table of R36. -/
theorem initLoadsTheInitialHash : Obligations.InitLoadsTheInitialHash := fun _ ha =>
  ⟨_, rfl, rfl, ha.completed, rfl, rfl, rfl, rfl, rfl, exec_hostSideKept (i := .init) rfl⟩

/-- Settles O21: the one check of `compress` is that of the block's range. -/
theorem compressComputesOrReportsSrcRange : Obligations.CompressComputesOrReportsSrcRange := by
  refine fun s ha => ⟨fun hsrc ht => ⟨_, rfl, ?inside⟩, fun hsrc => ⟨_, rfl, ?outside⟩⟩
  case inside =>
    have hc := (compressCheck_eq_none_iff s).2 ((inRange_iff ..).2 (.inr hsrc))
    exact (compressed_deliveredDigest hc).succeedsWith ha ht
  case outside =>
    have hr := (inRange_eq_false_iff s.params s.src 64).2 ⟨by decide, hsrc⟩
    rw [compressed_failing s _ ((compressCheck_eq_some_iff s _).2 ⟨hr, rfl⟩)]
    exact s.raiseError_failsWith .srcRange 0

/-! ### hash -/

/-- Settles O22: both ranges are in the memory, so the checks pass and the digest is delivered. -/
theorem hashCommandsComputeSha256 : Obligations.HashCommandsComputeSha256 := by
  intro s i fmt hmem ha ht hsrc hdst
  have hc : s.hashCheck fmt = none := by
    rw [hashCheck_eq_none_iff, inRange_iff, inRange_iff]
    exact ⟨hsrc, hdst.imp_left (congrArg outSize)⟩
  exact ⟨_, exec_of_mem_hashForms hmem s, (hashed_deliveredDigest hc).succeedsWith ha ht⟩

/-- Settles O23: the range of the message is checked first and that of the output next. -/
theorem hashCommandsReportRangeErrorsInOrder : Obligations.HashCommandsReportRangeErrorsInOrder := by
  intro s i fmt hmem _
  have fails {e : Failure} (hc : s.hashCheck fmt = some e) :
      ∃ t, exec i s = .next t ∧ s.FailsWith t e.1 e.2 :=
    ⟨_, exec_of_mem_hashForms hmem s, hashed_failing s fmt e hc ▸ s.raiseError_failsWith e.1 e.2⟩
  refine ⟨fun hlen hsrc => fails (e := (.srcRange, 0)) (hashCheck_eq_srcRange fmt ?_),
    fun hsrc hfmt hdst => fails (e := (.dstRange, 0)) (hashCheck_eq_dstRange ?_ ?_)⟩
  · exact (inRange_eq_false_iff ..).2 ⟨hlen, hsrc⟩
  · exact (inRange_iff ..).2 hsrc
  · exact (inRange_eq_false_iff ..).2 ⟨(outSize_ne_zero_iff fmt).2 hfmt, hdst⟩

/-! ### store -/

/-- Settles O24: the one check of `store.*` is that of the output's range, and what is delivered is `H`. -/
theorem storeCommandsWriteTheHashState : Obligations.StoreCommandsWriteTheHashState := by
  intro s i fmt hmem ha
  refine ⟨fun hdst ht => ⟨_, exec_of_mem_storeForms hmem s, ?inside, stored_hazard s fmt⟩,
    fun hdst => ⟨_, exec_of_mem_storeForms hmem s, ?outside, stored_hazard s fmt⟩⟩
  case inside =>
    have hc := (storeCheck_eq_none_iff s fmt).2 ((inRange_iff ..).2 (.inr hdst))
    exact (stored_deliveredDigest hc).succeedsWith ha ht
  case outside =>
    have hsize := outSize_ne_zero_of_storeForms _ hmem
    have hr := (inRange_eq_false_iff ..).2 ⟨hsize, hdst⟩
    rw [stored_failing s fmt _ (storeCheck_eq_dstRange hr)]
    exact s.raiseError_failsWith .dstRange 0

/-! ### Frames -/

/-- A byte outside the command's output range reads as before (R131). -/
theorem exec_get?_outside {i : Instr} {s t : State} {a : Nat} (h : exec i s = .next t)
    (ha : a < s.dst ∨ s.dst + outSize (outFmtOf i) ≤ a) :
    Memory.get? t.mem a = Memory.get? s.mem a := by
  by_contra hne
  obtain ⟨-, hlo, hhi⟩ := exec_changes_mem h hne
  omega

/-- ERR, ERRCODE and ERRINFO change in an error completion only (R193, R194). -/
theorem exec_errorFields {i : Instr} {s t : State} (h : exec i s = .next t) :
    (t.status.err = s.status.err ∧ t.status.errCode = s.status.errCode ∧
      t.regs.errInfo = s.regs.errInfo) ∨ t.status.err = true := by
  obtain ⟨e, rs, -, rfl⟩ | ⟨-, rfl⟩ | ⟨-, rfl⟩ | ⟨-, -, -, d, w, tr, n, rs, rfl, -⟩ :=
    exec_cases i s t h
  · exact .inr rfl
  · exact .inl ⟨rfl, rfl, rfl⟩
  · exact .inl ⟨rfl, rfl, rfl⟩
  · exact .inl ⟨rfl, rfl, rfl⟩

theorem compressed_tree (s : State) : s.compressed.tree = s.tree := by
  cases hc : s.compressCheck with
  | some e => rw [compressed_failing s e hc]; rfl
  | none => rw [compressed_passing s hc]; rfl

theorem hashed_tree (s : State) (fmt : OutFmt) : (s.hashed fmt).tree = s.tree := by
  cases hc : s.hashCheck fmt with
  | some e => rw [hashed_failing s fmt e hc]; rfl
  | none => rw [hashed_passing s fmt hc]; rfl

theorem stored_tree (s : State) (fmt : OutFmt) : (s.stored fmt).tree = s.tree := by
  cases hc : s.storeCheck fmt with
  | some e => rw [stored_failing s fmt e hc]; rfl
  | none => rw [stored_passing s fmt hc]; rfl

theorem stored_work (s : State) (fmt : OutFmt) : (s.stored fmt).work = s.work := by
  cases hc : s.storeCheck fmt with
  | some e => rw [stored_failing s fmt e hc]; rfl
  | none => rw [stored_passing s fmt hc]; rfl

theorem outSize_of_storesNothing : ∀ i ∈ [Instr.nop, Instr.init, Instr.compress, Instr.hash,
    Instr.merkle], outSize (outFmtOf i) = 0 := by
  decide

/-- Settles O29: the output of these commands has no byte, so no address lies in it. -/
theorem frameOfCommandsThatStoreNothing : Obligations.FrameOfCommandsThatStoreNothing := by
  intro i s t hmem h
  refine ⟨fun a => exec_get?_outside h ?mem, exec_hostSideKept h, exec_errorFields h, ?nop, ?quiet,
    ?tree, (exec_hazard h).mono⟩
  case mem =>
    have hsize : outSize (outFmtOf i) = 0 := outSize_of_storesNothing i hmem
    omega
  case nop =>
    rintro rfl
    cases h
    rfl
  case quiet =>
    intro hi
    simp only [List.mem_cons, List.not_mem_nil, or_false] at hi
    obtain rfl | rfl := hi <;> cases h <;> exact ⟨rfl, rfl⟩
  case tree =>
    intro hne
    simp only [List.mem_cons, List.not_mem_nil, or_false] at hmem
    obtain rfl | rfl | rfl | rfl | rfl := hmem <;> cases h
    · rfl
    · rfl
    · exact compressed_tree s
    · exact hashed_tree s .plain
    · exact absurd rfl hne

/-- Settles O30: what changes in the memory is the output range of a command that has passed its checks;
the rest is read off the completion of each family. -/
theorem frameOfStoringCommands : Obligations.FrameOfStoringCommands := by
  intro i s t _ h
  refine ⟨fun a => exec_get?_outside h, exec_hostSideKept h, exec_errorFields h, fun hi => ?store,
    fun hi => ?hash, (exec_hazard h).mono⟩
  case store =>
    have keeps (fmt : OutFmt) : (s.tainted = false → (s.stored fmt).h = s.h) ∧
        (s.stored fmt).work = s.work ∧ (s.stored fmt).tree = s.tree ∧
        (s.stored fmt).hazard = s.hazard :=
      ⟨stored_h fmt, stored_work s fmt, stored_tree s fmt, stored_hazard s fmt⟩
    simp only [List.mem_cons, List.not_mem_nil, or_false] at hi
    obtain rfl | rfl := hi <;> cases h
    · exact keeps .bin
    · exact keeps .hex
  case hash =>
    simp only [List.mem_cons, List.not_mem_nil, or_false] at hi
    obtain rfl | rfl := hi <;> cases h
    · exact hashed_tree s .bin
    · exact hashed_tree s .hex

/-! ### What hash and merkle depend on -/

/-- `t` and `t'` hold the same `H` and the same bytes in the output range of `s`. -/
def State.SameResult (s t t' : State) (fmt : OutFmt) : Prop :=
  t.h = t'.h ∧ ∀ k, k < outSize fmt →
    Memory.get? t.mem (s.dst + k) = Memory.get? t'.mem (s.dst + k)

theorem DeliveredDigest.sameResult {s s' t t' : State} {fmt : OutFmt} {d d' : Digest}
    (h : DeliveredDigest s t fmt d) (h' : DeliveredDigest s' t' fmt d') (hd : d = d')
    (hl : s.latch = s'.latch) (ht : s.tainted = false) (ht' : s'.tainted = false) :
    s.SameResult t t' fmt := by
  subst hd
  have hdst : s.dst = s'.dst := by rw [State.dst, State.dst, hl]
  refine ⟨(h.h_eq ht).trans (h'.h_eq ht').symm, fun k hk => ?_⟩
  rw [h.output ht hk, hdst, h'.output ht' hk]

theorem hashed_sameResult {s s' : State} {fmt : OutFmt} (hl : s.latch = s'.latch)
    (ht : s.tainted = false) (ht' : s'.tainted = false) (hc : s.hashCheck fmt = none)
    (hc' : s'.hashCheck fmt = none) : s.SameResult (s.hashed fmt) (s'.hashed fmt) fmt :=
  (hashed_deliveredDigest hc).sameResult (hashed_deliveredDigest hc')
    (congrArg sha256 (message_congr hl)) hl ht ht'

theorem merkled_sameResult {s s' : State} {fmt : OutFmt} (hl : s.latch = s'.latch)
    (ht : s.tainted = false) (ht' : s'.tainted = false) (hc : s.merkleCheck fmt = none)
    (hc' : s'.merkleCheck fmt = none) : s.SameResult (s.merkled fmt) (s'.merkled fmt) fmt := by
  obtain ⟨root, hr⟩ := exists_root_of_check s fmt hc
  have hr' : merkleRoot s'.leaves = .ok root := leaves_congr hl ▸ hr
  exact (merkled_deliveredDigest hc hr).sameResult (merkled_deliveredDigest hc' hr') rfl hl ht ht'

/-- Settles O33: the checks, the message and the leaves are made of the parameters and the latches, so the
two states deliver the same digest. -/
theorem hashAndMerkleDependOnLatchesOnly : Obligations.HashAndMerkleDependOnLatchesOnly := by
  intro i s s' t t' hmem hp hl ht ht' hc h h'
  have hc' : s'.check i = none := (check_congr hp hl i).symm.trans hc
  simp only [List.mem_cons, List.not_mem_nil, or_false] at hmem
  obtain rfl | rfl | rfl | rfl | rfl | rfl := hmem <;> cases h <;> cases h'
  · exact hashed_sameResult hl ht ht' hc hc'
  · exact hashed_sameResult hl ht ht' hc hc'
  · exact hashed_sameResult hl ht ht' hc hc'
  · exact merkled_sameResult hl ht ht' hc hc'
  · exact merkled_sameResult hl ht ht' hc hc'
  · exact merkled_sameResult hl ht ht' hc hc'

/-! ### Compressing the padded blocks -/

theorem chain_succ (m : Bytes) (k : Nat) :
    chain m (k + 1) = compressBlock (chain m k) (padBlock m k) := by
  rw [chain, List.range_succ, List.foldl_append, ← chain]
  rfl

/-- Bytes that stand in the latched copy have been written (R76). -/
theorem readsUnwritten_eq_false_of_latch_mem {s : State} {a : Nat} {bs : Bytes}
    (h : ∀ k, k < bs.length → Memory.get? s.latch.mem (a + k) = bs[k]?) :
    s.readsUnwritten [(a, bs.length)] = false := by
  refine Bool.eq_false_iff.2 fun hr => ?_
  obtain ⟨b, hb, hnone⟩ := (readsUnwritten_iff ..).1 hr
  simp only [covers_iff, List.mem_singleton, exists_eq_left] at hb
  obtain ⟨hlo, hhi⟩ := hb
  obtain ⟨k, rfl⟩ := Nat.exists_eq_add_of_le hlo
  rw [h k (by omega), List.getElem?_eq_none_iff] at hnone
  omega

/-- Settles O34: the block at `L_SRC` reads as block `k`, every byte of it written before acceptance. -/
theorem compressOverPaddedBlocksBuildsSha256 :
    Obligations.CompressOverPaddedBlocksBuildsSha256 := by
  refine fun m => ⟨rfl, rfl, fun s => ⟨_, rfl, rfl, rfl⟩, fun s k ht hsrc hk hh hbytes => ?_⟩
  have hc : s.check .compress = none :=
    (compressCheck_eq_none_iff s).2 ((inRange_iff ..).2 (.inr hsrc))
  have hlen := padBlock_length hk
  have hblock : ∀ j, j < (padBlock m k).length →
      Memory.get? s.latch.mem (s.src + j) = (padBlock m k)[j]? := by
    intro j hj
    rw [hlen] at hj
    rw [hbytes j hj, padBlock_getElem? m k hj]
  have hread := engineRead_of_latch_mem hblock
  have hwritten := readsUnwritten_eq_false_of_latch_mem hblock
  rw [hlen] at hread hwritten
  refine ⟨_, rfl, ?_, ?_⟩
  · rw [(compressed_deliveredDigest hc).h_eq ht, hread, hh, chain_succ]
  · rw [exec_hazard_of_passing hc rfl, State.readSet, hwritten, Bool.or_false]

end Sys2Proof.Machine
end

section
/-! PROOFS for 42_merkle.md: one reduction round (O15), how many rounds leave one digest (O16), the root (O17), the
in-place sequencing (O18), and the `merkle` commands: the root (O25) and the errors (O26). -/

namespace Sys2Proof.Machine

/-! ### One reduction round -/

@[simp] theorem nextLayer_length (d : List Digest) :
    (nextLayer d).length = (d.length + 1) / 2 := by
  induction d using nextLayer.induct with
  | case1 x y rest ih => simp only [nextLayer, List.length_cons, ih]; omega
  | case2 x => simp [nextLayer]
  | case3 => simp [nextLayer]

theorem nextLayer_getElem?_pair (z : Digest) {d : List Digest} {j : Nat} (hj : j < d.length / 2) :
    (nextLayer d)[j]? = some (node2 (d.getD (2 * j) z) (d.getD (2 * j + 1) z)) := by
  induction d using nextLayer.induct generalizing j with
  | case1 x y rest ih =>
    cases j with
    | zero => rfl
    | succ j => exact ih (by simp only [List.length_cons] at hj; omega)
  | case2 x => simp at hj
  | case3 => simp at hj

theorem nextLayer_getElem?_odd (z : Digest) {d : List Digest} (hd : d.length % 2 = 1) :
    (nextLayer d)[d.length / 2]? = some (node1 (d.getD (d.length - 1) z)) := by
  induction d using nextLayer.induct with
  | case1 x y rest ih =>
    simp only [List.length_cons] at hd ⊢
    obtain ⟨m, hm⟩ : ∃ m, rest.length = m + 1 := Nat.exists_eq_add_one.2 (by omega)
    rw [hm] at ih hd ⊢
    rw [show (m + 1 + 1 + 1) / 2 = (m + 1) / 2 + 1 by omega]
    exact ih (by omega)
  | case2 x => simp [nextLayer]
  | case3 => simp at hd

/-- Settles O15: the entries of the next layer, by the recursion of `nextLayer` on pairs. -/
theorem nextLayerPairsConsecutiveDigests : Obligations.NextLayerPairsConsecutiveDigests := by
  refine fun d z => ⟨nextLayer_length d, fun j hj => ?_, fun hd => ?_⟩
  · rw [List.getD_eq_getElem?_getD, nextLayer_getElem?_pair z hj]
    rfl
  · rw [List.getD_eq_getElem?_getD, nextLayer_getElem?_odd z hd]
    rfl

/-! ### The number of rounds -/

theorem iterate_nextLayer_ne_nil (k : Nat) {d : List Digest} (h : d ≠ []) :
    nextLayer^[k] d ≠ [] :=
  Function.Iterate.rec (· ≠ []) h nextLayer_ne_nil k

/-- A round halves the layer, rounding up, so `k` rounds bring `2 ^ k` digests to one. -/
theorem iterate_nextLayer_length_le_one_iff (k : Nat) (d : List Digest) :
    (nextLayer^[k] d).length ≤ 1 ↔ d.length ≤ 2 ^ k := by
  induction k generalizing d with
  | zero => rfl
  | succ k ih =>
    rw [Function.iterate_succ_apply, ih, nextLayer_length, pow_succ]
    omega

/-- Settles O16: `clog` is the least exponent whose power of 2 reaches the length. -/
theorem reductionTakesLogarithmicRounds : Obligations.ReductionTakesLogarithmicRounds := by
  intro d k hd
  have hpos := List.length_pos_iff.2 (iterate_nextLayer_ne_nil k hd)
  rw [Nat.clog_le_iff_le_pow Nat.one_lt_two, ← iterate_nextLayer_length_le_one_iff]
  omega

/-! ### The root -/

/-- With fuel enough, the loop of R175 makes `ceil(log2 N)` rounds. -/
theorem reduceLayers_eq_iterate {fuel : Nat} {d : List Digest} (h : Nat.clog 2 d.length ≤ fuel) :
    reduceLayers fuel d = nextLayer^[Nat.clog 2 d.length] d := by
  induction fuel generalizing d with
  | zero =>
    rw [Nat.le_zero.1 h]
    rfl
  | succ fuel ih =>
    rw [reduceLayers]
    split
    case isTrue hlt =>
      have hclog : Nat.clog 2 d.length = Nat.clog 2 (nextLayer d).length + 1 := by
        rw [nextLayer_length, Nat.clog_of_two_le Nat.one_lt_two hlt]
        rfl
      rw [hclog] at h ⊢
      exact ih (Nat.le_of_succ_le_succ h)
    case isFalse hle =>
      rw [Nat.clog_of_right_le_one (Nat.not_lt.1 hle)]
      rfl

@[simp] theorem leafLayer_length (vs : List Bytes) : (leafLayer vs).length = vs.length :=
  List.length_map sha256

theorem leafLayer_ne_nil {vs : List Bytes} (h : vs ≠ []) : leafLayer vs ≠ [] :=
  mt List.map_eq_nil_iff.1 h

/-- The fuel of `merkleRoot` is enough: `N ≤ 2 ^ N`. -/
theorem reduceLayers_leafLayer (vs : List Bytes) :
    reduceLayers vs.length (leafLayer vs) = nextLayer^[Nat.clog 2 vs.length] (leafLayer vs) := by
  have hfuel : Nat.clog 2 vs.length ≤ vs.length :=
    Nat.clog_le_of_le_pow vs.length.lt_two_pow_self.le
  rw [reduceLayers_eq_iterate (by rwa [leafLayer_length]), leafLayer_length]

theorem merkleRoot_eq_ok_of_head? {vs : List Bytes} {d : Digest}
    (h : (reduceLayers vs.length (leafLayer vs)).head? = some d) : merkleRoot vs = .ok d := by
  obtain ⟨rest, hr⟩ := List.head?_eq_some_iff.1 h
  rw [merkleRoot, hr]

/-- Settles O17: the reduction ends after `ceil(log2 N)` rounds, where O16 leaves one digest. -/
theorem merkleRootOfNoneOneTwoAndMany : Obligations.MerkleRootOfNoneOneTwoAndMany := by
  refine ⟨rfl, fun v => rfl, fun x y => rfl, fun vs hvs => ?_⟩
  have hone := (reductionTakesLogarithmicRounds (leafLayer vs) (Nat.clog 2 vs.length)
    (leafLayer_ne_nil hvs)).2 (leafLayer_length vs ▸ le_rfl)
  obtain ⟨d, hd⟩ := List.length_eq_one_iff.1 hone
  refine ⟨d, merkleRoot_eq_ok_of_head? ?_, hd⟩
  rw [reduceLayers_leafLayer, hd]
  rfl

/-! ### In-place sequencing -/

@[simp] theorem foldl_pairInPlace_length (layer : List Digest) (js : List Nat) :
    (js.foldl pairInPlace layer).length = layer.length := by
  induction js generalizing layer with
  | nil => rfl
  | cons j js ih => rw [List.foldl_cons, ih, pairInPlace, List.length_set]

/-- After `m` pairs their digests stand at the front, and every entry behind them is untouched: pair `m`
reads the entries `2m` and `2m + 1`, which no earlier pair has written (R179). -/
theorem foldl_pairInPlace_getElem? {layer : List Digest} {m : Nat} (hm : 2 * m ≤ layer.length)
    (k : Nat) : ((List.range m).foldl pairInPlace layer)[k]? =
      if k < m then
        some (node2 (layer.getD (2 * k) initialHash) (layer.getD (2 * k + 1) initialHash))
      else layer[k]? := by
  induction m generalizing k with
  | zero => rfl
  | succ m ih =>
    have untouched {i : Nat} (hi : m ≤ i) :
        ((List.range m).foldl pairInPlace layer).getD i initialHash = layer.getD i initialHash := by
      rw [List.getD_eq_getElem?_getD, ih (by omega), if_neg (by omega), List.getD_eq_getElem?_getD]
    rw [List.range_succ, List.foldl_append, List.foldl_cons, List.foldl_nil, pairInPlace,
      untouched (by omega), untouched (by omega)]
    obtain hlt | rfl | hgt := lt_trichotomy k m
    · rw [List.getElem?_set_ne (by omega), ih (by omega), if_pos hlt, if_pos (by omega)]
    · rw [List.getElem?_set_self (by rw [foldl_pairInPlace_length]; omega), if_pos (by omega)]
    · rw [List.getElem?_set_ne (by omega), ih (by omega), if_neg (by omega), if_neg (by omega)]

@[simp] theorem roundInPlace_length (layer : List Digest) (n : Nat) :
    (roundInPlace layer n).length = layer.length := by
  unfold roundInPlace
  split <;> simp

theorem roundInPlace_getElem?_pair {layer : List Digest} {n j : Nat} (hn : n ≤ layer.length)
    (hj : j < n / 2) : (roundInPlace layer n)[j]? =
      some (node2 (layer.getD (2 * j) initialHash) (layer.getD (2 * j + 1) initialHash)) := by
  have hpair := foldl_pairInPlace_getElem? (m := n / 2) (layer := layer) (by omega) j
  rw [if_pos hj] at hpair
  unfold roundInPlace
  split
  · rw [List.getElem?_set_ne (by omega), hpair]
  · exact hpair

/-- The odd entry is read after the pairs have been written, but stands behind them. -/
theorem roundInPlace_getElem?_odd {layer : List Digest} {n : Nat} (hn : n ≤ layer.length)
    (hodd : n % 2 = 1) :
    (roundInPlace layer n)[n / 2]? = some (node1 (layer.getD (n - 1) initialHash)) := by
  rw [roundInPlace, if_pos hodd, show (n - 1) / 2 = n / 2 by omega,
    List.getElem?_set_self (by rw [foldl_pairInPlace_length]; omega), List.getD_eq_getElem?_getD,
    foldl_pairInPlace_getElem? (by omega), if_neg (by omega), List.getD_eq_getElem?_getD]

theorem getD_take_of_lt {layer : List Digest} {n i : Nat} (hi : i < n) (z : Digest) :
    (layer.take n).getD i z = layer.getD i z := by
  rw [List.getD_eq_getElem?_getD, List.getElem?_take_of_lt hi, List.getD_eq_getElem?_getD]

/-- A round in place over the first `n` entries is a round of R174 on them. -/
theorem take_roundInPlace {layer : List Digest} {n : Nat} (hn : n ≤ layer.length) :
    (roundInPlace layer n).take ((n + 1) / 2) = nextLayer (layer.take n) := by
  have hlen : (layer.take n).length = n := List.length_take_of_le hn
  apply List.ext_getElem?
  intro j
  obtain hpair | ⟨rfl, hodd⟩ | hout :
      j < n / 2 ∨ (j = n / 2 ∧ n % 2 = 1) ∨ (n + 1) / 2 ≤ j := by omega
  · rw [List.getElem?_take_of_lt (by omega), roundInPlace_getElem?_pair hn hpair,
      nextLayer_getElem?_pair initialHash (by rwa [hlen]), getD_take_of_lt (by omega),
      getD_take_of_lt (by omega)]
  · have hlast := nextLayer_getElem?_odd initialHash (d := layer.take n) (by rwa [hlen])
    rw [hlen, getD_take_of_lt (by omega)] at hlast
    rw [List.getElem?_take_of_lt (by omega), roundInPlace_getElem?_odd hn hodd, hlast]
  · rw [List.getElem?_take_eq_none hout, List.getElem?_eq_none (by rwa [nextLayer_length, hlen])]

/-- The loop of R179 over a buffer whose first `n` entries are a layer leaves in `LAYER[0]` the first digest
of that layer reduced. -/
theorem head?_loopInPlace (fuel : Nat) {layer : List Digest} {n : Nat} (hpos : 0 < n)
    (hn : n ≤ layer.length) :
    (loopInPlace fuel layer n).head? = (reduceLayers fuel (layer.take n)).head? := by
  induction fuel generalizing layer n with
  | zero => rw [loopInPlace, reduceLayers, List.head?_take, if_neg hpos.ne']
  | succ fuel ih =>
    rw [loopInPlace, reduceLayers, List.length_take_of_le hn]
    split
    · rw [← take_roundInPlace hn]
      exact ih (by omega) (by rw [roundInPlace_length]; omega)
    · rw [List.head?_take, if_neg hpos.ne']

theorem take_fillInPlace (layer : List Digest) (vs : List Bytes) :
    (fillInPlace layer vs).take vs.length = leafLayer vs :=
  List.take_left' (leafLayer_length vs)

theorem length_le_length_fillInPlace (layer : List Digest) (vs : List Bytes) :
    vs.length ≤ (fillInPlace layer vs).length := by
  simp [fillInPlace]

/-- Settles O18: each round in place is a round of R174 on the entries in use. -/
theorem inPlaceSequencingComputesTheRoot : Obligations.InPlaceSequencingComputesTheRoot := by
  intro layer vs hvs _
  have hloop := head?_loopInPlace vs.length (List.length_pos_iff.2 hvs)
    (length_le_length_fillInPlace layer vs)
  rw [take_fillInPlace] at hloop
  obtain ⟨d, hd⟩ := Option.ne_none_iff_exists'.1
    (mt List.head?_eq_none_iff.1 (reduceLayers_ne_nil vs.length _ (leafLayer_ne_nil hvs)))
  rw [merkleRoot_eq_ok_of_head? hd, rootInPlace, List.getD_eq_getElem?_getD, ← List.head?_eq_getElem?,
    hloop, hd]
  rfl

/-! ### The checks of the merkle commands -/

theorem exec_of_mem_merkleForms {i : Instr} {fmt : OutFmt}
    (h : (i, fmt) ∈ [(Instr.merkle, OutFmt.plain), (Instr.merkleBin, OutFmt.bin),
      (Instr.merkleHex, OutFmt.hex)])
    (s : State) : exec i s = .next (s.merkled fmt) := by
  simp only [List.mem_cons, List.not_mem_nil, or_false, Prod.mk.injEq] at h
  obtain ⟨rfl, rfl⟩ | ⟨rfl, rfl⟩ | ⟨rfl, rfl⟩ := h <;> rfl

theorem tableCheck_eq_emptyInput {s : State} (fmt : OutFmt) (h0 : s.len = 0) :
    s.tableCheck fmt = some (.emptyInput, 0) := by
  simp [State.tableCheck, h0]

theorem tableCheck_eq_leafCount {s : State} (fmt : OutFmt) (h0 : s.len ≠ 0)
    (hmax : s.params.maxLeaves < s.len) : s.tableCheck fmt = some (.leafCount, 0) := by
  simp [State.tableCheck, h0, hmax]

theorem tableCheck_eq_srcRange {s : State} (fmt : OutFmt) (h0 : s.len ≠ 0)
    (hmax : s.len ≤ s.params.maxLeaves) (hsrc : inRange s.params s.src (8 * s.len) = false) :
    s.tableCheck fmt = some (.srcRange, 0) := by
  simp [State.tableCheck, h0, hmax.not_gt, hsrc]

theorem tableCheck_eq_dstRange {s : State} {fmt : OutFmt} (h0 : s.len ≠ 0)
    (hmax : s.len ≤ s.params.maxLeaves) (hsrc : inRange s.params s.src (8 * s.len) = true)
    (hdst : inRange s.params s.dst (outSize fmt) = false) :
    s.tableCheck fmt = some (.dstRange, 0) := by
  simp [State.tableCheck, h0, hmax.not_gt, hsrc, hdst]

theorem tableCheck_eq_none {s : State} {fmt : OutFmt} (h0 : s.len ≠ 0)
    (hmax : s.len ≤ s.params.maxLeaves) (hsrc : s.src + 8 * s.len ≤ s.params.memBytes)
    (hdst : fmt = .plain ∨ s.dst + outSize fmt ≤ s.params.memBytes) :
    s.tableCheck fmt = none := by
  rw [tableCheck_eq_none_iff, inRange_iff, inRange_iff]
  exact ⟨h0, hmax, .inr hsrc, hdst.imp_left (congrArg outSize)⟩

theorem merkleCheck_of_tableCheck_some {s : State} {fmt : OutFmt} {e : Failure}
    (h : s.tableCheck fmt = some e) : s.merkleCheck fmt = some e := by
  simp only [State.merkleCheck, h]

theorem merkleCheck_of_firstBadLeaf_some {s : State} {fmt : OutFmt} {k : Nat}
    (ht : s.tableCheck fmt = none) (hk : s.firstBadLeaf = some k) :
    s.merkleCheck fmt = some (.leafRange, BitVec.ofNat 32 k) := by
  simp only [State.merkleCheck, ht, hk, Option.map_some]

/-! ### merkle -/

/-- Settles O25: every check passes, so the root of the values is delivered. -/
theorem merkleCommandsComputeTheRoot : Obligations.MerkleCommandsComputeTheRoot := by
  intro s i fmt hmem ha ht h0 hmax hsrc hdst hleaves
  have htable := tableCheck_eq_none h0 hmax hsrc hdst
  have hbad : s.firstBadLeaf = none :=
    (firstBadLeaf_eq_none_iff s).2 fun k hk => (inRange_iff ..).2 (hleaves k hk)
  have hc := (merkleCheck_eq_none_iff s fmt).2 ⟨htable, hbad⟩
  obtain ⟨root, hroot⟩ := exists_root_of_check s fmt hc
  exact ⟨_, root, exec_of_mem_merkleForms hmem s, hroot,
    (merkled_deliveredDigest hc hroot).succeedsWith ha ht⟩

theorem FailedFrom.failsWith {s t : State} {e : Failure} (h : FailedFrom s t (some e)) :
    s.FailsWith t e.1 e.2 := by
  have hhost := h.hostSideKept
  obtain ⟨_, rs, ⟨⟩, rfl⟩ := h
  exact ⟨rfl, rfl, rfl, rfl, rfl, rfl, hhost⟩

/-- Settles O26: in each clause the checks before the one that fails pass; the reads of the table noted before a
LEAF_RANGE error change HAZARD alone. -/
theorem merkleCommandsReportErrorsInOrder : Obligations.MerkleCommandsReportErrorsInOrder := by
  intro s i fmt hmem _
  have fails {e : Failure} (hc : s.merkleCheck fmt = some e) :
      ∃ t, exec i s = .next t ∧ s.FailsWith t e.1 e.2 :=
    ⟨_, exec_of_mem_merkleForms hmem s,
      FailedFrom.failsWith ⟨e, _, rfl, merkled_failing s fmt e hc⟩⟩
  have failsTable {code : ErrorCode} (hc : s.tableCheck fmt = some (code, 0)) :
      ∃ t, exec i s = .next t ∧ s.FailsWith t code 0 :=
    fails (merkleCheck_of_tableCheck_some hc)
  refine ⟨fun h0 => failsTable (tableCheck_eq_emptyInput fmt h0),
    fun h0 hmax => failsTable (tableCheck_eq_leafCount fmt h0 hmax),
    fun h0 hmax hsrc => failsTable (tableCheck_eq_srcRange fmt h0 hmax ?src),
    fun h0 hmax hsrc hfmt hdst => failsTable (tableCheck_eq_dstRange h0 hmax ?srcOk ?dst),
    fun k hmax hsrc hdst hk hlen hleaf hbefore =>
      fails (merkleCheck_of_firstBadLeaf_some ?table ?leaf)⟩
  case src => exact (inRange_eq_false_iff ..).2 ⟨by omega, hsrc⟩
  case srcOk => exact (inRange_iff ..).2 (.inr hsrc)
  case dst => exact (inRange_eq_false_iff ..).2 ⟨(outSize_ne_zero_iff fmt).2 hfmt, hdst⟩
  case table => exact tableCheck_eq_none (by omega) hmax hsrc hdst
  case leaf =>
    rw [firstBadLeaf_eq_some_iff, inRange_eq_false_iff]
    exact ⟨hk, ⟨hlen, hleaf⟩, fun j hj => (inRange_iff ..).2 (hbefore j hj)⟩

end Sys2Proof.Machine
end

section
/-! PROOFS for 60_exceptions.md: every command completes (O6), an error is atomic (O28), writes refused while
BUSY (O43), a write of CMD before or after a completion (O52), and every run ends idle (O58). -/

namespace Sys2Proof.Machine

/-! ### Completions -/

/-- Every completion clears BUSY (R193, R194). -/
theorem exec_idle {i : Instr} {s t : State} (h : exec i s = .next t) : t.status.busy = false := by
  obtain ⟨e, rs, -, rfl⟩ | ⟨-, rfl⟩ | ⟨-, rfl⟩ | ⟨-, -, -, d, w, tr, n, rs, rfl, -⟩ :=
    exec_cases i s t h
  all_goals rfl

/-- The engine's turn leaves BUSY = 0, whether or not a command was running. -/
theorem engineStep_idle {s t : State} (h : engineStep s = .next t) : t.status.busy = false := by
  obtain ⟨hb, rfl⟩ | ⟨-, i, -, he⟩ | ⟨-, -, rfl⟩ := engineStep_cases s t h
  · exact hb
  · exact exec_idle he
  · rfl

/-- Settles O6: `exec` always answers, and each kind of completion clears BUSY, sets DONE and keeps REJ. -/
theorem everyCommandCompletes : Obligations.EveryCommandCompletes := by
  intro i s
  obtain ⟨t, h⟩ := exec_next i s
  exact ⟨t, h, exec_idle h, exec_done h, (exec_hostSideKept h).rej⟩

/-! ### Errors -/

/-- A completion that sets ERR is one in error, by the command's first failing check. -/
theorem exec_failsWith_of_err {i : Instr} {s t : State} (hs : s.status.err = false)
    (h : exec i s = .next t) (ht : t.status.err = true) :
    ∃ e, s.check i = some e ∧ s.FailsWith t e.1 e.2 := by
  have kept (heq : t.status.err = s.status.err) : False := by simp [hs, ht] at heq
  obtain hf | ⟨-, rfl⟩ | ⟨-, rfl⟩ | ⟨-, -, -, d, w, tr, n, rs, rfl, -⟩ := exec_cases i s t h
  · have ⟨e, _, hc, _⟩ := hf
    exact ⟨e, hc, FailedFrom.failsWith (hc ▸ hf)⟩
  all_goals exact (kept rfl).elim

/-- Settles O28: ERR was 0, so a check failed, and an error completion changes STATUS and ERRINFO alone; HAZARD
is noted only for the descriptors read before a LEAF_RANGE error. -/
theorem errorsAreAtomic : Obligations.ErrorsAreAtomic := by
  intro i s t hs h ht
  obtain ⟨e, hc, hf⟩ := exec_failsWith_of_err hs h ht
  refine ⟨hf.h, hf.tree, hf.work, hf.mem, hf.host, (exec_hazard h).mono, fun hcode => ?hazard⟩
  case hazard =>
    have hcode' : t.status.errCode = e.1 := congrArg Status.errCode hf.status
    exact exec_hazard_of_failing hc (hcode' ▸ hcode) h

/-! ### Writes refused while BUSY -/

theorem writeReg_h_of_busy {s : State} (hb : s.status.busy = true) (i : Fin 8) (v : Word) :
    s.writeReg (.h i) v = s.reject := by
  simp [State.writeReg, hb]

/-- Settles O43: the offsets are those of CMD and of the `H` registers, whose writes BUSY rejects. -/
theorem busyWritesAreRefused : Obligations.BusyWritesAreRefused := by
  rintro s v off hb (rfl | ⟨i, rfl⟩)
  · exact (hostStep_regWrite_regOffset s .cmd v).trans (congrArg _ (writeReg_cmd_of_busy hb v))
  · exact (hostStep_regWrite_regOffset s (.h i) v).trans (congrArg _ (writeReg_h_of_busy hb i v))

/-! ### A refused write and a completion in either order -/

theorem compressed_reject (s : State) : s.reject.compressed = s.compressed.reject := by
  cases hc : s.compressCheck with
  | some e => rw [compressed_failing s e hc, compressed_failing s.reject e hc]; rfl
  | none => rw [compressed_passing s hc, compressed_passing s.reject hc]; rfl

theorem hashed_reject (s : State) (fmt : OutFmt) : s.reject.hashed fmt = (s.hashed fmt).reject := by
  cases hc : s.hashCheck fmt with
  | some e => rw [hashed_failing s fmt e hc, hashed_failing s.reject fmt e hc]; rfl
  | none => rw [hashed_passing s fmt hc, hashed_passing s.reject fmt hc]; rfl

theorem stored_reject (s : State) (fmt : OutFmt) : s.reject.stored fmt = (s.stored fmt).reject := by
  cases hc : s.storeCheck fmt with
  | some e => rw [stored_failing s fmt e hc, stored_failing s.reject fmt e hc]; rfl
  | none => rw [stored_passing s fmt hc, stored_passing s.reject fmt hc]; rfl

theorem merkled_reject (s : State) (fmt : OutFmt) :
    s.reject.merkled fmt = (s.merkled fmt).reject := by
  cases hc : s.merkleCheck fmt with
  | some e => rw [merkled_failing s fmt e hc, merkled_failing s.reject fmt e hc]; rfl
  | none =>
    obtain ⟨root, hr⟩ := exists_root_of_check s fmt hc
    rw [merkled_passing s fmt root hc hr, merkled_passing s.reject fmt root hc hr]; rfl

/-- No completion looks at REJ or changes it, so a refused write commutes with it (R196, R198). -/
theorem exec_reject {i : Instr} {s t : State} (h : exec i s = .next t) :
    exec i s.reject = .next t.reject := by
  cases i <;> cases h
  case nop => rfl
  case init => rfl
  case compress => exact congrArg _ (compressed_reject s)
  case hash => exact congrArg _ (hashed_reject s .plain)
  case hashBin => exact congrArg _ (hashed_reject s .bin)
  case hashHex => exact congrArg _ (hashed_reject s .hex)
  case merkle => exact congrArg _ (merkled_reject s .plain)
  case merkleBin => exact congrArg _ (merkled_reject s .bin)
  case merkleHex => exact congrArg _ (merkled_reject s .hex)
  case storeBin => exact congrArg _ (stored_reject s .bin)
  case storeHex => exact congrArg _ (stored_reject s .hex)

theorem engineStep_reject {s t : State} (h : engineStep s = .next t) :
    engineStep s.reject = .next t.reject := by
  obtain ⟨hb, rfl⟩ | ⟨hb, i, hd, he⟩ | ⟨hb, ⟨e, hd⟩, rfl⟩ := engineStep_cases s t h
  · exact engineStep_of_idle (s := t.reject) hb
  · exact (engineStep_of_decode_ok (s := s.reject) hb hd).trans (exec_reject he)
  · exact engineStep_of_decode_error (s := s.reject) hb hd

/-- Settles O52: after the completion BUSY is 0 and the write is accepted; before it the write only sets REJ,
which the completion keeps. -/
theorem bothOrdersOfCompletionAndCommandWrite :
    Obligations.BothOrdersOfCompletionAndCommandWrite := by
  intro s t c hb h
  rw [writeReg_cmd_of_idle (engineStep_idle h), writeReg_cmd_of_busy hb]
  exact ⟨rfl, rfl, rfl, t.reject, engineStep_reject h, rfl, rfl, rfl, rfl⟩

/-! ### Runs -/

/-- Every transaction of the host still to come is part of the interface (10_state.md R20, 20_memory.md R61). -/
def State.AgendaOk (s : State) : Prop := ∀ a, Event.host a ∈ s.agenda → a.wf s.params = true

/-- A step over such an agenda is not refused. -/
theorem State.AgendaOk.step_next {s : State} (hs : s.AgendaOk) : ∃ t, step s = .next t := by
  cases ha : s.agenda with
  | nil => rw [step_of_agenda_nil ha]; exact engineStep_next s
  | cons e rest =>
    cases e with
    | engine => rw [step_of_agenda_engine ha]; exact engineStep_next _
    | host a =>
      rw [step_of_agenda_host ha]
      exact (hostStepsAreRefusedExactlyOutsideTheInterface a _).1 (hs a (by simp [ha]))

theorem State.AgendaOk.of_step {s t : State} (hs : s.AgendaOk) (h : step s = .next t) :
    t.AgendaOk := by
  obtain ⟨hp, hag⟩ := stepsKeepTheParameters s t h
  intro a ha
  rw [hag] at ha
  rw [hp]
  exact hs a (List.mem_of_mem_tail ha)

theorem runSteps_succ {s t : State} (k : Nat) (h : step s = .next t) :
    runSteps (k + 1) s = runSteps k t := by
  simp only [runSteps, h]

/-- With `n` events still to come, `n + 1` steps take them all and give the engine its last turn. -/
theorem State.AgendaOk.runSteps_idle {n : Nat} {s : State} (hs : s.AgendaOk)
    (hn : s.agenda.length = n) :
    ∃ t, runSteps (n + 1) s = .next t ∧ t.status.busy = false ∧ t.agenda = [] := by
  induction n generalizing s with
  | zero =>
    have hnil := List.length_eq_zero_iff.1 hn
    obtain ⟨t, h⟩ := engineStep_next s
    exact ⟨t, runSteps_succ 0 ((step_of_agenda_nil hnil).trans h), engineStep_idle h,
      (engineStep_hostSideKept h).agenda.trans hnil⟩
  | succ n ih =>
    obtain ⟨t, h⟩ := hs.step_next
    have htail : t.agenda = s.agenda.tail := (stepsKeepTheParameters s t h).2
    rw [runSteps_succ (n + 1) h]
    exact ih (hs.of_step h) (by rw [htail, List.length_tail, hn, Nat.add_sub_cancel])

/-- Settles O58, by induction on the number of events still to come. -/
theorem everyRunEndsIdle : Obligations.EveryRunEndsIdle :=
  fun _ hs => State.AgendaOk.runSteps_idle hs rfl

end Sys2Proof.Machine
end

section
/-! PROOFS for 70_reset_and_hazards.md: host accesses to a running command's bytes (O37 to O39), host writes before
or after a completion (O40, O41), and reset (O54, O55). -/

namespace Sys2Proof.Machine

/-! ### The running command's sets -/

theorem running_eq_none_of_idle {s : State} (hb : s.status.busy = false) : s.running = none := by
  refine Option.eq_none_iff_forall_ne_some.2 fun i hr => ?_
  simp [((running_eq_some_iff s i).1 hr).1] at hb

theorem running_eq_none_of_check {s : State}
    (h : ∀ i, decode s.latch.cmd = .ok i → s.check i ≠ none) : s.running = none := by
  refine Option.eq_none_iff_forall_ne_some.2 fun i hr => ?_
  obtain ⟨-, hd, hc⟩ := (running_eq_some_iff s i).1 hr
  exact h i hd hc

/-- An idle engine has no read set and no write set (R232). -/
theorem not_hit_of_idle {s : State} (hb : s.status.busy = false) (a : Nat) :
    s.inReadSet a = false ∧ s.inWriteSet a = false := by
  simp only [State.inReadSet, State.inWriteSet, running_eq_none_of_idle hb, and_self]

/-- A byte outside the write set of a command that has passed its checks is outside its output range. -/
theorem outside_of_inWriteSet_eq_false {s : State} {i : Instr} {a : Nat}
    (hr : s.running = some i) (h : s.inWriteSet a = false) :
    a < s.dst ∨ s.dst + outSize (outFmtOf i) ≤ a := by
  have hcov : covers (s.writeSet i) a = false := by simpa only [State.inWriteSet, hr] using h
  have hpast : s.dst ≤ a → s.dst + outSize (outFmtOf i) ≤ a := by
    simpa [covers, State.writeSet] using hcov
  omega

/-! ### The memory port -/

theorem hostStep_memWrite {s : State} {a : Nat} (ha : a < s.params.memBytes) (v : Byte) :
    hostStep (.memWrite a v) s = .next (s.writeByte a v) := if_pos ha

theorem hostStep_memRead {s : State} {a : Nat} (ha : a < s.params.memBytes) :
    hostStep (.memRead a) s = .next (s.readByte a) := if_pos ha

/-- A write outside both sets changes the memory alone (R235). -/
theorem writeByte_of_not_hit {s : State} {a : Nat} (hr : s.inReadSet a = false)
    (hw : s.inWriteSet a = false) (v : Byte) :
    s.writeByte a v = { s with mem := Memory.write s.mem a v } := by
  simp only [State.writeByte, hr, hw, Bool.or_false]

theorem readByte_of_unfinished {s : State} {a : Nat} (h : s.isUnfinished a = true) :
    s.readByte a = s.answerByte none := by
  simp only [State.readByte, h, if_true]

theorem readByte_of_not_unfinished {s : State} {a : Nat} (h : s.isUnfinished a = false) :
    s.readByte a = s.answerByte (Memory.get? s.mem a) := by
  simp only [State.readByte, h, Bool.false_eq_true, if_false]

/-- Settles O37: the write is `writeByte`, and the hit is what it adds to HAZARD. -/
theorem writeIntoRunningCommandSetsHazard : Obligations.WriteIntoRunningCommandSetsHazard := by
  intro s a v ha hit
  refine ⟨s.writeByte a v, hostStep_memWrite ha v, ?hazard, Memory.get?_write_self s.mem a v, ?outside,
    rfl, rfl, rfl, rfl, rfl⟩
  case hazard => rw [State.writeByte_hazard, (Bool.or_eq_true ..).mpr hit, Bool.or_true]
  case outside => exact fun b hb => Memory.get?_write_other s.mem a b v (by omega)

/-- Settles O38: BUSY makes both answers draws, and an answer that is a draw touches the port and the count of
draws alone. -/
theorem unfinishedResultsReadAsDraws : Obligations.UnfinishedResultsReadAsDraws := by
  refine ⟨fun s i a hb hd ha hlo hhi => ⟨s.draws, 0, ?byte⟩, fun s i hb => ⟨s.draws, 0, ?word⟩⟩
  case byte =>
    have hu : s.isUnfinished a = true := (isUnfinished_iff s a).2 ⟨hb, i, hd, hlo, hhi⟩
    rw [hostStep_memRead ha, readByte_of_unfinished hu]
    rfl
  case word =>
    have hdraw : s.regAnswer (.h i) = none := if_pos hb
    refine (hostStep_regRead_regOffset s (.h i)).trans ?_
    rw [hdraw]
    rfl

/-- Settles O39: outside the output range a read looks the byte up in the memory, and outside both sets a write
is no hit. -/
theorem accessesOutsideTheSetsAreExact : Obligations.AccessesOutsideTheSetsAreExact := by
  intro s a ha
  refine ⟨fun hout => ?read, fun hr hw v => ⟨Memory.write s.mem a v, ?write,
    Memory.get?_write_self s.mem a v, fun b hb => Memory.get?_write_other s.mem a b v hb⟩⟩
  case read =>
    have hu : s.isUnfinished a = false := by
      refine Bool.eq_false_iff.2 fun hu => ?_
      obtain ⟨hb, i, hd, hlo, hhi⟩ := (isUnfinished_iff s a).1 hu
      have := hout i hb hd
      omega
    rw [hostStep_memRead ha, readByte_of_not_unfinished hu]
    exact ⟨fun b hb => by rw [hb]; rfl, fun hn => ⟨s.draws, 0, by rw [hn]; rfl⟩⟩
  case write => rw [hostStep_memWrite ha, writeByte_of_not_hit hr hw]

/-! ### Completions as data -/

/-- A completion with all that it takes from the latches, the datapath, `H` and the count of draws: host writes
that change none of these leave it the same. -/
inductive Completion where
  /-- In error, after the reads noted. -/
  | failed (e : Failure) (rs : List AddrRange)
  /-- With `h` in `H` and no output. -/
  | completed (h : Digest)
  /-- With the digest `d` delivered. -/
  | delivered (d : Digest) (w : Work) (tr : Tree) (n : Nat) (rs : List AddrRange)

/-- The state a completion leaves, `fmt` being the output format of the command. -/
def Completion.apply (fmt : OutFmt) : Completion → State → State
  | .failed e rs, s => (s.noteReads rs).raiseError e.1 e.2
  | .completed h, s => State.complete { s with h := h }
  | .delivered d w tr n rs, s =>
    State.deliver { (s.noteReads rs) with work := w, tree := tr, draws := n } fmt d

/-- The completion agrees with the outcome of the command's checks. -/
def Completion.Follows (check : Option Failure) : Completion → Prop
  | .failed e _ => check = some e
  | .completed _ => check = none
  | .delivered .. => check = none

/-- The state with other host registers and another buffer memory. -/
def State.withHost (s : State) (g : Regs) (m : List Host.Cell) : State := { s with regs := g, mem := m }

/-- `f` completes `s` in the same way whatever the host's registers and the buffer memory hold. -/
def CompletesAlike (s : State) (check : Option Failure) (fmt : OutFmt)
    (f : State → Host.Outcome State Fault Refusal) : Prop :=
  ∃ c : Completion, c.Follows check ∧ ∀ (g : Regs) (m : List Host.Cell),
    f (s.withHost g m) = .next (c.apply fmt (s.withHost g m))

theorem compressed_completesAlike (s : State) :
    CompletesAlike s s.compressCheck .plain fun s => .next s.compressed := by
  cases hc : s.compressCheck with
  | some e =>
    refine ⟨.failed e [], rfl, fun g m => congrArg _ ?_⟩
    rw [compressed_failing (s.withHost g m) e hc, Completion.apply, noteReads_nil]
  | none =>
    exact ⟨.delivered (compressBlock s.h (s.engineRead s.src 64)) (freeWork s.draws) s.tree
      (s.draws + 1) [(s.src, 64)], rfl, fun g m => congrArg _ (compressed_passing _ hc)⟩

theorem hashed_completesAlike (s : State) (fmt : OutFmt) :
    CompletesAlike s (s.hashCheck fmt) fmt fun s => .next (s.hashed fmt) := by
  cases hc : s.hashCheck fmt with
  | some e =>
    refine ⟨.failed e [], rfl, fun g m => congrArg _ ?_⟩
    rw [hashed_failing (s.withHost g m) fmt e hc, Completion.apply, noteReads_nil]
  | none =>
    exact ⟨.delivered (sha256 (s.engineRead s.src s.len)) (freeWork s.draws) s.tree
      (s.draws + 1) [(s.src, s.len)], rfl, fun g m => congrArg _ (hashed_passing _ fmt hc)⟩

theorem stored_completesAlike (s : State) (fmt : OutFmt) :
    CompletesAlike s (s.storeCheck fmt) fmt fun s => .next (s.stored fmt) := by
  cases hc : s.storeCheck fmt with
  | some e =>
    refine ⟨.failed e [], rfl, fun g m => congrArg _ ?_⟩
    rw [stored_failing (s.withHost g m) fmt e hc, Completion.apply, noteReads_nil]
  | none =>
    refine ⟨.delivered s.h s.work s.tree s.draws [], rfl, fun g m => congrArg _ ?_⟩
    rw [stored_passing (s.withHost g m) fmt hc, Completion.apply, noteReads_nil]
    rfl

theorem merkled_completesAlike (s : State) (fmt : OutFmt) :
    CompletesAlike s (s.merkleCheck fmt) fmt fun s => .next (s.merkled fmt) := by
  cases hc : s.merkleCheck fmt with
  | some e =>
    exact ⟨.failed e (s.merkleReads fmt), rfl, fun g m => congrArg _ (merkled_failing _ fmt e hc)⟩
  | none =>
    obtain ⟨root, hr⟩ := exists_root_of_check s fmt hc
    exact ⟨.delivered root (freeWork s.draws) (freeTree (s.draws + 1) s.params.maxLeaves)
      (s.draws + 1 + s.params.maxLeaves + 1) (s.tableRange s.len :: s.leafRanges), rfl,
      fun g m => congrArg _ (merkled_passing _ fmt root hc hr)⟩

/-- No completion reads the host's registers or the buffer memory (10_state.md R39, 20_memory.md R72). -/
theorem exec_completesAlike (i : Instr) (s : State) :
    CompletesAlike s (s.check i) (outFmtOf i) (exec i) := by
  cases i
  case nop => exact ⟨.completed s.h, rfl, fun _ _ => rfl⟩
  case init => exact ⟨.completed initialHash, rfl, fun _ _ => rfl⟩
  case compress => exact compressed_completesAlike s
  case hash => exact hashed_completesAlike s .plain
  case hashBin => exact hashed_completesAlike s .bin
  case hashHex => exact hashed_completesAlike s .hex
  case merkle => exact merkled_completesAlike s .plain
  case merkleBin => exact merkled_completesAlike s .bin
  case merkleHex => exact merkled_completesAlike s .hex
  case storeBin => exact stored_completesAlike s .bin
  case storeHex => exact stored_completesAlike s .hex

theorem Completion.apply_idle (fmt : OutFmt) (c : Completion) (s : State) :
    (c.apply fmt s).status.busy = false := by
  cases c <;> rfl

/-! ### A host write before or after a completion -/

/-- A write of memory outside the output range of a delivery commutes with the completion. -/
theorem Completion.apply_write {c : Completion} {s : State} {fmt : OutFmt} {a : Nat} (v : Byte)
    (hwf : Memory.wf s.mem = true) {check : Option Failure} (hc : c.Follows check)
    (hout : check = none → a < s.dst ∨ s.dst + outSize fmt ≤ a) :
    c.apply fmt { s with mem := Memory.write s.mem a v } =
      { c.apply fmt s with mem := Memory.write (c.apply fmt s).mem a v } := by
  cases c with
  | failed e rs => rfl
  | completed h => rfl
  | delivered d w tr n rs =>
    refine congrArg (fun m => { Completion.apply fmt (.delivered d w tr n rs) s with mem := m })
      (Memory.writeBytes_write_comm _ s.mem a s.dst v ?_ hwf)
    rw [settledOutput_length]
    exact hout hc

/-- Settles O40: the completion reads the memory of acceptance, writes outside the byte only, and leaves an idle
engine, on which the write is no hit either. -/
theorem outsideWriteCommutesWithCompletion : Obligations.OutsideWriteCommutesWithCompletion := by
  intro s i a v hwf hb hd ha hr hw
  obtain ⟨c, hc, hexec⟩ := exec_completesAlike i s
  have hout (hpass : s.check i = none) : a < s.dst ∨ s.dst + outSize (outFmtOf i) ≤ a :=
    outside_of_inWriteSet_eq_false ((running_eq_some_iff s i).2 ⟨hb, hd, hpass⟩) hw
  have hex : exec i s = .next (c.apply (outFmtOf i) s) := hexec s.regs s.mem
  refine ⟨s.writeByte a v, c.apply (outFmtOf i) s,
    c.apply (outFmtOf i) { s with mem := Memory.write s.mem a v }, hostStep_memWrite ha v, ?before, hex,
    ?after⟩
  case before =>
    rw [writeByte_of_not_hit hr hw]
    exact hexec s.regs _
  case after =>
    obtain ⟨hr', hw'⟩ := not_hit_of_idle (c.apply_idle (outFmtOf i) s) a
    rw [hostStep_memWrite ((exec_hostSideKept hex).params ▸ ha), writeByte_of_not_hit hr' hw',
      Completion.apply_write v hwf hc hout]

theorem Completion.apply_writeReg (fmt : OutFmt) (c : Completion) (s : State) {r : RegName} (v : Word)
    (hr : r ∈ [RegName.srcAddr, RegName.len, RegName.dstAddr, RegName.ctrl]) :
    c.apply fmt (s.writeReg r v) = (c.apply fmt s).writeReg r v := by
  simp only [List.mem_cons, List.not_mem_nil, or_false] at hr
  obtain rfl | rfl | rfl | rfl := hr
  all_goals cases c <;> rfl

/-- A write of an operand register or of CTRL changes the host's registers alone. -/
theorem writeReg_eq_with_regs (s : State) {r : RegName} (v : Word)
    (hr : r ∈ [RegName.srcAddr, RegName.len, RegName.dstAddr, RegName.ctrl]) :
    s.writeReg r v = { s with regs := (s.writeReg r v).regs } := by
  simp only [List.mem_cons, List.not_mem_nil, or_false] at hr
  obtain rfl | rfl | rfl | rfl := hr
  all_goals rfl

/-- Settles O41: the completion reads the latches and none of the four registers, and of the registers it writes
ERRINFO alone. -/
theorem operandWritesCommuteWithCompletion : Obligations.OperandWritesCommuteWithCompletion := by
  intro s i r v hr
  obtain ⟨c, -, hexec⟩ := exec_completesAlike i s
  refine ⟨c.apply (outFmtOf i) s, ?before, hexec s.regs s.mem⟩
  rw [← Completion.apply_writeReg _ c s v hr, writeReg_eq_with_regs s v hr]
  exact hexec _ s.mem

/-! ### Reset -/

theorem memAfterReset_of_running {s : State} {i : Instr} (h : s.running = some i) :
    s.memAfterReset =
      Memory.writeBytes s.mem s.dst (freeBytes s.draws (outSize (outFmtOf i))) := by
  simp only [State.memAfterReset, h]

theorem memAfterReset_of_not_running {s : State} (h : s.running = none) :
    s.memAfterReset = s.mem := by
  simp only [State.memAfterReset, h]

theorem freeBytes_getElem? (n : Nat) {k len : Nat} (hk : k < len) :
    (freeBytes n len)[k]? = some (Config.freeByte n k) := by
  simp [freeBytes, hk]

/-- Settles O54: `hostReset` sets each register, keeps HAZARD and the parameters, and finds no command running in
an idle engine. -/
theorem resetRestoresTheRegisters : Obligations.ResetRestoresTheRegisters := fun s =>
  ⟨s.hostReset, rfl, rfl, (by decide : Status.reset.word = 0), rfl, rfl, rfl, rfl,
    fun hb => memAfterReset_of_not_running (running_eq_none_of_idle hb)⟩

/-- Settles O55: the bytes drawn are the output range of the command that `State.running` gives, one that has
passed its checks. -/
theorem resetWhileBusyDrawsTheOutputBytes : Obligations.ResetWhileBusyDrawsTheOutputBytes := by
  intro s hb
  refine ⟨s.hostReset, rfl, rfl, rfl, rfl, fun i hd hc => ?passed,
    fun hc => memAfterReset_of_not_running (running_eq_none_of_check hc)⟩
  case passed =>
    have hmem : s.hostReset.mem = _ :=
      memAfterReset_of_running ((running_eq_some_iff s i).2 ⟨hb, hd, hc⟩)
    refine ⟨fun k hk => ⟨s.draws, k, ?inside⟩, fun b hout => ?outside⟩
    case inside =>
      rw [hmem, Memory.get?_writeBytes_inside _ _ _ _ (by rwa [freeBytes_length]),
        freeBytes_getElem? _ hk]
    case outside =>
      rw [hmem, Memory.get?_writeBytes_outside _ _ _ _ (by rwa [freeBytes_length])]

end Sys2Proof.Machine
end
